-- ==== Sys2Proof/Word.lean ====
section
/-! DEFINITION. Word.lean: the widths the hardware has (R5). All values are unsigned and nothing is ever sign-extended (R8). -/

namespace Sys2Proof

/-- A memory byte, a general register, a timer: 8 bits (R5 `V_WIDTH`, `TIMER_WIDTH`). -/
abbrev Byte := BitVec 8

/-- An instruction word, `pc`, `I`, a stack slot: 16 bits (R5 `INSTR_BITS`, `PC_WIDTH`, `I_WIDTH`). -/
abbrev Word := BitVec 16

/-- A register index `X` or `Y`, "always in [0,16)" (R21, R94); also a key number 0 to F (R30). -/
abbrev Nibble := Fin 16

end Sys2Proof
end

