-- ==== Sys2Proof/Config.lean ====
section
/-! DEFINITION. Config.lean: what is fixed for a session (R5, R6, R7, R35), and the one source of free values, the random
source of `CXNN` (R33, R171). -/

namespace Sys2Proof

/-- `MEM_SIZE` (R5). -/
abbrev memSize : Nat := 4096

/-- The legal entry points: exactly these two (R6, D28). -/
inductive EntryPoint where
  | standard   -- 0x200
  | eti660     -- 0x600, the "ETI 660" convention
deriving DecidableEq, Repr

/-- The address an entry point stands for (R6). -/
def EntryPoint.addr : EntryPoint → Nat
  | .standard => 0x200
  | .eti660 => 0x600

/-- What a data access above `0xFFF` does (R68 `wrap`, R69 `fatal`; D1 leaves the parameter open). -/
inductive BoundsPolicy where
  | wrap
  | fatal
deriving DecidableEq, Repr

/-- The configuration: "fixed for a session and is a parameter of every event" (R35). -/
structure Config where
  /-- `ENTRY_POINT` (R6). -/
  entryPoint : EntryPoint
  /-- `INSTR_HZ`, "a positive rate"; "timing only: no rule's result depends on it" (R6, R271), so no step reads it. R6 names no
  number type: a whole number of Hz is the model's own DESIGN CHOICE (log 31). -/
  instrHz : Nat
  /-- `SEED` (R6): the spec fixes no seed type; any countable one is coded in the naturals (log 5). -/
  seed : Nat
  /-- `BOUNDS_POLICY` (R7). -/
  boundsPolicy : BoundsPolicy
  /-- `FONT_DATA`, 80 bytes at `0x000` to `0x04F` (R7, R63, R64). -/
  fontData : Vector Byte 80
deriving DecidableEq, Repr

/-- `RngInit`: seed to generator state, opaque (R171, D14). A FREE VALUE (log 5): it has no body, so no proof sees a value. -/
opaque Config.rngInit : Nat → Nat

/-- `RngNext`: generator state to byte and next state, opaque (R171, D14). A FREE VALUE (log 5): "any byte is possible". -/
opaque Config.rngNext : Nat → Byte × Nat

/-- The 80 bytes of the conventional font, glyph by glyph. PRESUMED (log 4): R64 gives them "from general knowledge, not in
source"; they are only the default of the parameter `FONT_DATA`. -/
def defaultFontBytes : List Byte :=
  [0xF0, 0x90, 0x90, 0x90, 0xF0] ++ [0x20, 0x60, 0x20, 0x20, 0x70] ++
  [0xF0, 0x10, 0xF0, 0x80, 0xF0] ++ [0xF0, 0x10, 0xF0, 0x10, 0xF0] ++
  [0x90, 0x90, 0xF0, 0x10, 0x10] ++ [0xF0, 0x80, 0xF0, 0x10, 0xF0] ++
  [0xF0, 0x80, 0xF0, 0x90, 0xF0] ++ [0xF0, 0x10, 0x20, 0x40, 0x40] ++
  [0xF0, 0x90, 0xF0, 0x90, 0xF0] ++ [0xF0, 0x90, 0xF0, 0x10, 0xF0] ++
  [0xF0, 0x90, 0xF0, 0x90, 0x90] ++ [0xE0, 0x90, 0xE0, 0x90, 0xE0] ++
  [0xF0, 0x80, 0x80, 0x80, 0xF0] ++ [0xE0, 0x90, 0x90, 0x90, 0xE0] ++
  [0xF0, 0x80, 0xF0, 0x80, 0xF0] ++ [0xF0, 0x80, 0xF0, 0x80, 0x80]

/-- The default value of `FONT_DATA` (R64, log 4). -/
def defaultFont : Vector Byte 80 := ⟨defaultFontBytes.toArray, rfl⟩

/-- The configuration State.reset stands for (log 3): standard entry point, the spec's `wrap`, the default font; the rate
and the seed are DESIGN CHOICE. -/
def Config.default : Config where
  entryPoint := .standard
  instrHz := 500
  seed := 0
  boundsPolicy := .wrap
  fontData := defaultFont

end Sys2Proof
end

