-- ==== Sys2Proof/Syntax.lean ====
section
/-! DEFINITION. Syntax.lean: the 34 instructions of the opcode map (R96, R97). A constructor is `op` and the row's pattern,
the spec's only normative name (R101). The operands are the fields the row reads, in the order of the pattern; `8XY6` and
`8XYE` keep their ignored `Y` (R99), so that no bit of a word is lost: the model's own DESIGN CHOICE (log 29). -/

namespace Sys2Proof

/-- An instruction. `X`, `Y` are register indices, `n` a count 0 to 15, `nn` a byte, `nnn` a 12-bit address (R94). -/
inductive Instr where
  /-- `00E0`, clear the framebuffer (R210). -/
  | op00E0
  /-- `00EE`, return from subroutine (R140). -/
  | op00EE
  /-- `1NNN`, jump (R141). -/
  | op1NNN (nnn : BitVec 12)
  /-- `2NNN`, call subroutine (R142). -/
  | op2NNN (nnn : BitVec 12)
  /-- `3XNN`, skip if register equals byte (R143). -/
  | op3XNN (x : Nibble) (nn : Byte)
  /-- `4XNN`, skip if register differs from byte (R144). -/
  | op4XNN (x : Nibble) (nn : Byte)
  /-- `5XY0`, skip if registers equal (R145). -/
  | op5XY0 (x y : Nibble)
  /-- `6XNN`, load byte (R160). -/
  | op6XNN (x : Nibble) (nn : Byte)
  /-- `7XNN`, add byte, no carry (R161). -/
  | op7XNN (x : Nibble) (nn : Byte)
  /-- `8XY0`, copy register (R162). -/
  | op8XY0 (x y : Nibble)
  /-- `8XY1`, bitwise or (R163). -/
  | op8XY1 (x y : Nibble)
  /-- `8XY2`, bitwise and (R164). -/
  | op8XY2 (x y : Nibble)
  /-- `8XY3`, bitwise exclusive or (R165). -/
  | op8XY3 (x y : Nibble)
  /-- `8XY4`, add registers with carry flag (R166). -/
  | op8XY4 (x y : Nibble)
  /-- `8XY5`, subtract `V[Y]` from `V[X]` with no-borrow flag (R167). -/
  | op8XY5 (x y : Nibble)
  /-- `8XY6`, shift `V[X]` right by one; `Y` is encoded and ignored (R168, R99). -/
  | op8XY6 (x y : Nibble)
  /-- `8XY7`, reverse subtract with no-borrow flag (R169). -/
  | op8XY7 (x y : Nibble)
  /-- `8XYE`, shift `V[X]` left by one; `Y` is encoded and ignored (R170, R99). -/
  | op8XYE (x y : Nibble)
  /-- `9XY0`, skip if registers differ (R146). -/
  | op9XY0 (x y : Nibble)
  /-- `ANNN`, load address register (R190). -/
  | opANNN (nnn : BitVec 12)
  /-- `BNNN`, jump to address plus `V[0]` (R147). -/
  | opBNNN (nnn : BitVec 12)
  /-- `CXNN`, random byte masked (R171). -/
  | opCXNN (x : Nibble) (nn : Byte)
  /-- `DXYN`, draw a sprite (R211). -/
  | opDXYN (x y : Nibble) (n : Nibble)
  /-- `EX9E`, skip if key down (R230). -/
  | opEX9E (x : Nibble)
  /-- `EXA1`, skip if key up (R231). -/
  | opEXA1 (x : Nibble)
  /-- `FX07`, read delay timer (R232). -/
  | opFX07 (x : Nibble)
  /-- `FX0A`, wait for a key press (R233). -/
  | opFX0A (x : Nibble)
  /-- `FX15`, set delay timer (R234). -/
  | opFX15 (x : Nibble)
  /-- `FX18`, set sound timer (R235). -/
  | opFX18 (x : Nibble)
  /-- `FX1E`, add register to address register (R191). -/
  | opFX1E (x : Nibble)
  /-- `FX29`, point `I` at a font glyph (R192). -/
  | opFX29 (x : Nibble)
  /-- `FX33`, store binary-coded decimal (R193). -/
  | opFX33 (x : Nibble)
  /-- `FX55`, store registers `V[0]` to `V[X]` (R194). -/
  | opFX55 (x : Nibble)
  /-- `FX65`, load registers `V[0]` to `V[X]` (R195). -/
  | opFX65 (x : Nibble)
deriving DecidableEq, Repr

/-- The decoder's field record (R91): all six fields are extracted from every word. -/
structure Fields where
  op : BitVec 4
  x : BitVec 4
  y : BitVec 4
  n : BitVec 4
  nn : BitVec 8
  nnn : BitVec 12
deriving DecidableEq, Repr

end Sys2Proof
end

