-- ==== Sys2Proof/WellFormed.lean ====
section
/-! DEFINITION. WellFormed.lean: the checks on raw data. An `Instr` carries its operand ranges in its types (`X`, `Y`, `N`
in [0,16), `NN` in [0,256), `NNN` in [0,4096): R94), so every term of it is well formed; what is checked is the raw field
record before dispatch, and the configuration. -/

namespace Sys2Proof

/-- "The fields overlap: `NN = (Y << 4) | N`" (R91). -/
def Fields.byteAgrees (f : Fields) : Bool := f.nn == f.y ++ f.n

/-- "The fields overlap: ... `NNN = (X << 8) | NN`" (R91). -/
def Fields.addrAgrees (f : Fields) : Bool := f.nnn == f.x ++ f.nn

/-- A field record that some word has (R91). -/
def Fields.wellFormed (f : Fields) : Bool := f.byteAgrees && f.addrAgrees

/-- `INSTR_HZ` is "a positive rate" (R6); every other parameter's legal values are its type's. -/
def Config.wellFormed (c : Config) : Bool := decide (0 < c.instrHz)

end Sys2Proof
end

