-- ==== Sys2Proof/Decode.lean ====
section
/-! DEFINITION. Decode.lean: words to instructions (R90 to R99), total, rejecting by name; after it the encoder and the
opcode map as masks and values (R96). -/

namespace Sys2Proof

/-- Why bytes are no instruction. Neither is an outcome of the machine's step: an unknown word is the machine's own fault
`UnknownOpcode` (R98, R122). -/
inductive DecodeError where
  /-- The word matches no row of the opcode map (R98). -/
  | unknownOpcode (w : Word)
  /-- Fewer than two bytes were given (the machine always fetches two, R90). -/
  | truncated
deriving DecidableEq, Repr

/-- Field extraction, from the word alone (R91). -/
def Fields.ofWord (w : Word) : Fields where
  op := w.extractLsb' 12 4
  x := w.extractLsb' 8 4
  y := w.extractLsb' 4 4
  n := w.extractLsb' 0 4
  nn := w.extractLsb' 0 8
  nnn := w.extractLsb' 0 12

/-- The register index named by `X` (R91, R94). -/
def Fields.X (f : Fields) : Nibble := f.x.toFin

/-- The register index named by `Y` (R91, R94). -/
def Fields.Y (f : Fields) : Nibble := f.y.toFin

/-- The count `N` (R91, R94). -/
def Fields.N (f : Fields) : Nibble := f.n.toFin

/-- Secondary dispatch of primary nibble `0x0`: the two words `00E0` and `00EE`, whole (R95). -/
def decodeFixed (f : Fields) : Option Instr :=
  if f.nnn = 0x0E0#12 then some .op00E0
  else if f.nnn = 0x0EE#12 then some .op00EE
  else none

/-- Secondary dispatch of primary nibble `0x8` on `N` (R95). -/
def decodeAlu (f : Fields) : Option Instr :=
  if f.n = 0x0#4 then some (.op8XY0 f.X f.Y)
  else if f.n = 0x1#4 then some (.op8XY1 f.X f.Y)
  else if f.n = 0x2#4 then some (.op8XY2 f.X f.Y)
  else if f.n = 0x3#4 then some (.op8XY3 f.X f.Y)
  else if f.n = 0x4#4 then some (.op8XY4 f.X f.Y)
  else if f.n = 0x5#4 then some (.op8XY5 f.X f.Y)
  else if f.n = 0x6#4 then some (.op8XY6 f.X f.Y)
  else if f.n = 0x7#4 then some (.op8XY7 f.X f.Y)
  else if f.n = 0xE#4 then some (.op8XYE f.X f.Y)
  else none

/-- Secondary dispatch of primary nibble `0xE` on `NN` (R95). -/
def decodeKey (f : Fields) : Option Instr :=
  if f.nn = 0x9E#8 then some (.opEX9E f.X)
  else if f.nn = 0xA1#8 then some (.opEXA1 f.X)
  else none

/-- Secondary dispatch of primary nibble `0xF` on `NN` (R95). -/
def decodeMisc (f : Fields) : Option Instr :=
  if f.nn = 0x07#8 then some (.opFX07 f.X)
  else if f.nn = 0x0A#8 then some (.opFX0A f.X)
  else if f.nn = 0x15#8 then some (.opFX15 f.X)
  else if f.nn = 0x18#8 then some (.opFX18 f.X)
  else if f.nn = 0x1E#8 then some (.opFX1E f.X)
  else if f.nn = 0x29#8 then some (.opFX29 f.X)
  else if f.nn = 0x33#8 then some (.opFX33 f.X)
  else if f.nn = 0x55#8 then some (.opFX55 f.X)
  else if f.nn = 0x65#8 then some (.opFX65 f.X)
  else none

/-- Primary dispatch on `op`, then secondary where the nibble is polymorphic; `5XY0` and `9XY0` require `N = 0` (R95, C11). -/
def decodeFields (f : Fields) : Option Instr :=
  match f.op.toNat with
  | 0x0 => decodeFixed f
  | 0x1 => some (.op1NNN f.nnn)
  | 0x2 => some (.op2NNN f.nnn)
  | 0x3 => some (.op3XNN f.X f.nn)
  | 0x4 => some (.op4XNN f.X f.nn)
  | 0x5 => if f.n = 0x0#4 then some (.op5XY0 f.X f.Y) else none
  | 0x6 => some (.op6XNN f.X f.nn)
  | 0x7 => some (.op7XNN f.X f.nn)
  | 0x8 => decodeAlu f
  | 0x9 => if f.n = 0x0#4 then some (.op9XY0 f.X f.Y) else none
  | 0xA => some (.opANNN f.nnn)
  | 0xB => some (.opBNNN f.nnn)
  | 0xC => some (.opCXNN f.X f.nn)
  | 0xD => some (.opDXYN f.X f.Y f.N)
  | 0xE => decodeKey f
  | 0xF => decodeMisc f
  | _ => none

/-- Decode one word (R92, R95, R98). -/
def decodeWord (w : Word) : Except DecodeError Instr :=
  match decodeFields (Fields.ofWord w) with
  | some i => .ok i
  | none => .error (.unknownOpcode w)

/-- The word of two bytes, the high byte at the lower address (R65). -/
def wordOfBytes (hi lo : Byte) : Word := hi ++ lo

/-- The high byte of a word, the one stored at the lower address (R65). -/
def highByte (w : Word) : Byte := w.extractLsb' 8 8

/-- The low byte of a word, the one stored at the higher address (R65). -/
def lowByte (w : Word) : Byte := w.extractLsb' 0 8

/-- Decode the first instruction of a byte string and return the rest; total on any bytes (R90, R92). -/
def decodeBytes : List Byte → Except DecodeError (Instr × List Byte)
  | hi :: lo :: rest =>
    match decodeWord (wordOfBytes hi lo) with
    | .ok i => .ok (i, rest)
    | .error e => .error e
  | _ => .error .truncated

/-! ## The encoder -/

/-- Format `NNN` (R93). -/
def packNNN (op : BitVec 4) (nnn : BitVec 12) : Word := op ++ nnn

/-- Format `XNN`, and format `X` with its sub-opcode byte in place of `NN` (R93). -/
def packXNN (op : BitVec 4) (x : Nibble) (nn : Byte) : Word := op ++ (BitVec.ofFin (w := 4) x ++ nn)

/-- Format `XYN`, and format `XY` with its sub-opcode nibble in place of `N` (R93). -/
def packXYN (op : BitVec 4) (x y : Nibble) (n : BitVec 4) : Word :=
  op ++ (BitVec.ofFin (w := 4) x ++ (BitVec.ofFin (w := 4) y ++ n))

/-- The word of an instruction: the pattern of its row of R96, its digits filled with the operands (R93). -/
def encode : Instr → Word
  | .op00E0 => 0x00E0
  | .op00EE => 0x00EE
  | .op1NNN nnn => packNNN 0x1 nnn
  | .op2NNN nnn => packNNN 0x2 nnn
  | .op3XNN x nn => packXNN 0x3 x nn
  | .op4XNN x nn => packXNN 0x4 x nn
  | .op5XY0 x y => packXYN 0x5 x y 0x0
  | .op6XNN x nn => packXNN 0x6 x nn
  | .op7XNN x nn => packXNN 0x7 x nn
  | .op8XY0 x y => packXYN 0x8 x y 0x0
  | .op8XY1 x y => packXYN 0x8 x y 0x1
  | .op8XY2 x y => packXYN 0x8 x y 0x2
  | .op8XY3 x y => packXYN 0x8 x y 0x3
  | .op8XY4 x y => packXYN 0x8 x y 0x4
  | .op8XY5 x y => packXYN 0x8 x y 0x5
  | .op8XY6 x y => packXYN 0x8 x y 0x6
  | .op8XY7 x y => packXYN 0x8 x y 0x7
  | .op8XYE x y => packXYN 0x8 x y 0xE
  | .op9XY0 x y => packXYN 0x9 x y 0x0
  | .opANNN nnn => packNNN 0xA nnn
  | .opBNNN nnn => packNNN 0xB nnn
  | .opCXNN x nn => packXNN 0xC x nn
  | .opDXYN x y n => packXYN 0xD x y (BitVec.ofFin (w := 4) n)
  | .opEX9E x => packXNN 0xE x 0x9E
  | .opEXA1 x => packXNN 0xE x 0xA1
  | .opFX07 x => packXNN 0xF x 0x07
  | .opFX0A x => packXNN 0xF x 0x0A
  | .opFX15 x => packXNN 0xF x 0x15
  | .opFX18 x => packXNN 0xF x 0x18
  | .opFX1E x => packXNN 0xF x 0x1E
  | .opFX29 x => packXNN 0xF x 0x29
  | .opFX33 x => packXNN 0xF x 0x33
  | .opFX55 x => packXNN 0xF x 0x55
  | .opFX65 x => packXNN 0xF x 0x65

/-- The bytes of an instruction as memory holds them (R65, R90). -/
def encodeBytes (i : Instr) : List Byte := [highByte (encode i), lowByte (encode i)]

/-! ## The opcode map as masks and values -/

/-- A row's `mask` and `match` (R96). -/
structure OpcodeRow where
  mask : Word
  value : Word
deriving DecidableEq, Repr

/-- "A word selects an instruction exactly when `(w & mask) = match`" (R95). -/
def OpcodeRow.selects (r : OpcodeRow) (w : Word) : Bool := w &&& r.mask == r.value

/-- The row of R96 that an instruction stands in. -/
def Instr.row : Instr → OpcodeRow
  | .op00E0 => ⟨0xFFFF, 0x00E0⟩
  | .op00EE => ⟨0xFFFF, 0x00EE⟩
  | .op1NNN _ => ⟨0xF000, 0x1000⟩
  | .op2NNN _ => ⟨0xF000, 0x2000⟩
  | .op3XNN _ _ => ⟨0xF000, 0x3000⟩
  | .op4XNN _ _ => ⟨0xF000, 0x4000⟩
  | .op5XY0 _ _ => ⟨0xF00F, 0x5000⟩
  | .op6XNN _ _ => ⟨0xF000, 0x6000⟩
  | .op7XNN _ _ => ⟨0xF000, 0x7000⟩
  | .op8XY0 _ _ => ⟨0xF00F, 0x8000⟩
  | .op8XY1 _ _ => ⟨0xF00F, 0x8001⟩
  | .op8XY2 _ _ => ⟨0xF00F, 0x8002⟩
  | .op8XY3 _ _ => ⟨0xF00F, 0x8003⟩
  | .op8XY4 _ _ => ⟨0xF00F, 0x8004⟩
  | .op8XY5 _ _ => ⟨0xF00F, 0x8005⟩
  | .op8XY6 _ _ => ⟨0xF00F, 0x8006⟩
  | .op8XY7 _ _ => ⟨0xF00F, 0x8007⟩
  | .op8XYE _ _ => ⟨0xF00F, 0x800E⟩
  | .op9XY0 _ _ => ⟨0xF00F, 0x9000⟩
  | .opANNN _ => ⟨0xF000, 0xA000⟩
  | .opBNNN _ => ⟨0xF000, 0xB000⟩
  | .opCXNN _ _ => ⟨0xF000, 0xC000⟩
  | .opDXYN _ _ _ => ⟨0xF000, 0xD000⟩
  | .opEX9E _ => ⟨0xF0FF, 0xE09E⟩
  | .opEXA1 _ => ⟨0xF0FF, 0xE0A1⟩
  | .opFX07 _ => ⟨0xF0FF, 0xF007⟩
  | .opFX0A _ => ⟨0xF0FF, 0xF00A⟩
  | .opFX15 _ => ⟨0xF0FF, 0xF015⟩
  | .opFX18 _ => ⟨0xF0FF, 0xF018⟩
  | .opFX1E _ => ⟨0xF0FF, 0xF01E⟩
  | .opFX29 _ => ⟨0xF0FF, 0xF029⟩
  | .opFX33 _ => ⟨0xF0FF, 0xF033⟩
  | .opFX55 _ => ⟨0xF0FF, 0xF055⟩
  | .opFX65 _ => ⟨0xF0FF, 0xF065⟩

/-- The whole opcode map (R96), in the source's order. -/
def opcodeRows : List OpcodeRow :=
  [⟨0xFFFF, 0x00E0⟩, ⟨0xFFFF, 0x00EE⟩] ++
  [⟨0xF000, 0x1000⟩, ⟨0xF000, 0x2000⟩, ⟨0xF000, 0x3000⟩, ⟨0xF000, 0x4000⟩, ⟨0xF00F, 0x5000⟩] ++
  [⟨0xF000, 0x6000⟩, ⟨0xF000, 0x7000⟩] ++
  [⟨0xF00F, 0x8000⟩, ⟨0xF00F, 0x8001⟩, ⟨0xF00F, 0x8002⟩, ⟨0xF00F, 0x8003⟩, ⟨0xF00F, 0x8004⟩] ++
  [⟨0xF00F, 0x8005⟩, ⟨0xF00F, 0x8006⟩, ⟨0xF00F, 0x8007⟩, ⟨0xF00F, 0x800E⟩, ⟨0xF00F, 0x9000⟩] ++
  [⟨0xF000, 0xA000⟩, ⟨0xF000, 0xB000⟩, ⟨0xF000, 0xC000⟩, ⟨0xF000, 0xD000⟩] ++
  [⟨0xF0FF, 0xE09E⟩, ⟨0xF0FF, 0xE0A1⟩] ++
  [⟨0xF0FF, 0xF007⟩, ⟨0xF0FF, 0xF00A⟩, ⟨0xF0FF, 0xF015⟩, ⟨0xF0FF, 0xF018⟩, ⟨0xF0FF, 0xF01E⟩] ++
  [⟨0xF0FF, 0xF029⟩, ⟨0xF0FF, 0xF033⟩, ⟨0xF0FF, 0xF055⟩, ⟨0xF0FF, 0xF065⟩]

/-- The instruction the decoder reads from an instruction whose bits, numbered as `spec/opcode_table.json` numbers them, are
`w`: bits at or above `nbits` are 0, and the first (only) word is bits 15 to 0, stored high byte first (R65, R90). -/
def decodeTableWord (nbits w : Nat) : Option Instr :=
  let word : Word := BitVec.ofNat 16 (w % 2 ^ nbits)
  match decodeBytes [highByte word, lowByte word] with
  | .ok (i, _) => some i
  | .error _ => none

end Sys2Proof
end

