-- ==== Sys2Proof/Machine/State.lean ====
section
/-! DEFINITION. State.lean: the complete state of the core as plain data (R20), the reset state (R36), and the outcome types. -/

namespace Sys2Proof.Machine

/-- The fault kinds of R250. `romTooLarge` is the load-time one and never stands in a fault record (R256). -/
inductive FaultKind where
  | romTooLarge
  | stackOverflow
  | stackUnderflow
  | memoryOutOfBounds
  | unknownOpcode
  | pcOutOfBounds
deriving DecidableEq, Repr

/-- The fault record, "the payload of `Faulted(kind, pc, word)`" (R34). -/
structure FaultRecord where
  kind : FaultKind
  /-- The address of the faulting instruction (R34). -/
  pc : Word
  /-- The instruction word, "absent when `kind = PcOutOfBounds`" (R34). -/
  word : Option Word
  /-- The lowest offending address of `MemoryOutOfBounds`, absent for every other kind (R69, R250; log 8). -/
  info : Option Nat
deriving DecidableEq, Repr

/-- Whether the instruction clock has any effect (R31). -/
inductive RunState where
  /-- No ROM loaded since reset. -/
  | awaitingRom
  /-- An unpaused `InstrTick` executes one instruction. -/
  | running
  /-- Blocked in `FX0A`, whose `X` field is `x`. -/
  | waitKey (x : Nibble)
  /-- An execution fault was raised. -/
  | faulted (record : FaultRecord)
deriving DecidableEq, Repr

/-- A 16-element boolean vector: element `k` is true when key `k` is down (R30, R263). -/
abbrev Keys := Vector Bool 16

/-- The 64 x 32 grid of one-bit pixels, row `y` then column `x`: `fb[y][x]` (R29). -/
abbrev Framebuffer := Vector (Vector Bool 64) 32

/-- Memory as (address, byte) pairs, addresses strictly rising, none equal to what an unlisted address reads as (log 6). -/
abbrev Memory := List Host.Cell

/-- The eight atomic events that can change or read the state (R10). -/
inductive Event where
  /-- Instruction clock (R120). -/
  | instrTick
  /-- Timer clock (R266). -/
  | timerTick
  /-- Input ingestion (R263). -/
  | keyUpdate (keys : Keys)
  /-- Host (R300). -/
  | reset
  /-- Host (R301). -/
  | loadRom (image : List Byte)
  /-- Host (R264). -/
  | pause
  /-- Host (R264). -/
  | resume
  /-- Host, read-only (R275). -/
  | snapshot
deriving DecidableEq, Repr

/-- The state of the core (R20), in the spec's names; the last two fields are the model's own. -/
structure State where
  /-- 4096 bytes (R60). -/
  mem : Memory
  /-- `V[0]` to `V[15]` (R21); `V[15]` is `VF` (R22). -/
  V : Vector Byte 16
  /-- Program counter (R23). -/
  pc : Word
  /-- Address register (R25). -/
  I : Word
  /-- The 16 slots of the call stack (R26). -/
  stack : Vector Word 16
  /-- The stack count, 0 to 16 (R26, D19). -/
  SP : Fin 17
  /-- Delay timer (R27). -/
  DT : Byte
  /-- Sound timer (R27). -/
  ST : Byte
  /-- Framebuffer (R29). -/
  fb : Framebuffer
  /-- `KeyState` (R30). -/
  key : Keys
  /-- `run_state` (R31). -/
  runState : RunState
  /-- `paused` (R32). -/
  paused : Bool
  /-- `rng_state` (R33), opaque: a code in the naturals (log 5). -/
  rng : Nat
  /-- The configuration, "a parameter of every event" and not state of the core (R35); no event writes it (log 2). -/
  config : Config
  /-- The model's own: the events the environment delivers next, oldest first; with none listed an `InstrTick` comes (log 1). -/
  pending : List Event
deriving DecidableEq, Repr

/-- Reasons for the machine to stop with a fault. It has NO constructor (log 12): every execution fault of R250 has an entry
the spec describes, so it is a next state with `runState = .faulted ..` (R124, R257), and no access can miss memory (R68, R69). -/
inductive Fault where
deriving DecidableEq, Repr

/-- Reasons for a step to have no meaning. -/
inductive Refusal where
  /-- Raised by an arm of `exec` whose instruction has no meaning yet; none is left, so it is never raised. Safe. -/
  | notModelled (mnemonic : String)
deriving DecidableEq, Repr

/-- The outcome of a step or of an instruction's meaning. -/
abbrev Result := Host.Outcome State Fault Refusal

/-- Every element at its value after `Reset` (R36), under a configuration, with the environment's further events. -/
def State.resetWith (cfg : Config) (pending : List Event) : State where
  mem := []
  V := Vector.replicate 16 0
  pc := 0
  I := 0
  stack := Vector.replicate 16 0
  SP := 0
  DT := 0
  ST := 0
  fb := Vector.replicate 32 (Vector.replicate 64 false)
  key := Vector.replicate 16 false
  runState := .awaitingRom
  paused := false
  rng := Config.rngInit cfg.seed
  config := cfg
  pending := pending

/-- The machine right after reset (R36, R300), under the default configuration (log 3), no event waiting (log 1). -/
def State.reset : State := State.resetWith Config.default []

end Sys2Proof.Machine
end

