-- ==== Sys2Proof/Machine/Ops.lean ====
section
/-! DEFINITION. Ops.lean: the named operations over registers, stack, memory and framebuffer, instruction fetch, and taking an
execution fault. Every meaning is written over these. There is no return from a fault to write (R259): a faulted machine is
left by `Reset` or `LoadRom` alone (Machine/Events.lean). -/

namespace Sys2Proof.Machine

/-! ## Memory (R60) -/

/-- What an address reads as when it is not listed: its content after `Reset` (R36), the font at `0x000`-`0x04F` (R63), else 0. -/
def Memory.background (font : Vector Byte 80) (a : Nat) : Byte :=
  if h : a < 80 then font[a] else 0

/-- The listed byte at an address. -/
def Memory.lookup : Memory → Nat → Option Byte
  | [], _ => none
  | (k, b) :: rest, a => if k = a then some b else Memory.lookup rest a

/-- Read one byte; no side effect (R71). -/
def Memory.read (font : Vector Byte 80) (m : Memory) (a : Nat) : Byte :=
  (Memory.lookup m a).getD (Memory.background font a)

/-- List a byte at an address, keeping the addresses rising. -/
def Memory.insert : Memory → Nat → Byte → Memory
  | [], a, b => [(a, b)]
  | (k, c) :: rest, a, b =>
    if a < k then (a, b) :: (k, c) :: rest
    else if a = k then (a, b) :: rest
    else (k, c) :: Memory.insert rest a b

/-- Unlist an address. -/
def Memory.erase (m : Memory) (a : Nat) : Memory := m.filter (fun c => c.1 != a)

/-- Write one byte: that byte changes and nothing else (R71). -/
def Memory.write (font : Vector Byte 80) (m : Memory) (a : Nat) (b : Byte) : Memory :=
  if b = Memory.background font a then Memory.erase m a else Memory.insert m a b

/-- Write a byte string at rising addresses (the copy of R301). -/
def Memory.writeBytes (font : Vector Byte 80) : Memory → Nat → List Byte → Memory
  | m, _, [] => m
  | m, a, b :: rest => Memory.writeBytes font (Memory.write font m a b) (a + 1) rest

/-- "for a = 0x200 .. 0xFFF: mem[a] <- 0" (R301): nothing at or above `lo` stays listed. -/
def Memory.clearFrom (lo : Nat) (m : Memory) : Memory := m.filter (fun c => c.1 < lo)

/-- The canonical form from `lo` on: listed addresses are at least `lo`, inside memory and strictly rising, and no entry equals
what its address reads as unlisted (log 6). -/
def Memory.wfFrom (font : Vector Byte 80) : Nat → Memory → Bool
  | _, [] => true
  | lo, (k, b) :: rest =>
    decide (lo ≤ k) && decide (k < memSize) && !(b == Memory.background font k) && Memory.wfFrom font (k + 1) rest

/-- Memory is in its canonical form (log 6). -/
def Memory.wf (font : Vector Byte 80) (m : Memory) : Bool := Memory.wfFrom font 0 m

/-- The byte at an address, as fetch and every observer see it (R60). -/
def State.readByte (s : State) (a : Nat) : Byte := Memory.read s.config.fontData s.mem a

/-- Store a byte at an address of memory. -/
def State.writeByte (s : State) (a : Nat) (b : Byte) : State :=
  { s with mem := Memory.write s.config.fontData s.mem a b }

/-- The byte of memory a data address names: `EA(a) = a mod 4096` (R68, D1; log 32). Under `fatal` an instruction reaches it only after
`guardRange`, where `a <= 0xFFF` and `a mod 4096 = a` (R69, log 7). -/
def ea (a : Nat) : Nat := a % memSize

/-- `MemRead(a, 1)` (R9). -/
def State.memRead (s : State) (a : Nat) : Byte := s.readByte (ea a)

/-- `MemWrite(a, 1, v)` (R9). -/
def State.memWrite (s : State) (a : Nat) (b : Byte) : State := s.writeByte (ea a) b

/-! ## Registers -/

/-- `V[i]` (R21). -/
def State.getV (s : State) (x : Nibble) : Byte := s.V[x]

/-- `V[i] <- v` (R21). -/
def State.setV (s : State) (x : Nibble) (b : Byte) : State := { s with V := s.V.set x b }

/-- `V[15] <- flag` (R22). -/
def State.setVF (s : State) (b : Byte) : State := s.setV 15 b

/-- `pc <- t` (R23). -/
def State.setPc (s : State) (t : Word) : State := { s with pc := t }

/-- `pc <- pc + 2`: at fetch (R121), and `skip` (R127). -/
def State.advancePc (s : State) : State := s.setPc (s.pc + 2)

/-- `skip` when the condition holds (R127). -/
def State.skipIf (c : Bool) (s : State) : State := if c then s.advancePc else s

/-- `I <- v` (R25). -/
def State.setI (s : State) (v : Word) : State := { s with I := v }

/-- `DT <- v` (R27). -/
def State.setDT (s : State) (v : Byte) : State := { s with DT := v }

/-- `ST <- v` (R27). -/
def State.setST (s : State) (v : Byte) : State := { s with ST := v }

/-- Replace the framebuffer (R29). -/
def State.setFb (s : State) (fb : Framebuffer) : State := { s with fb := fb }

/-- Replace `KeyState` (R30). -/
def State.setKey (s : State) (k : Keys) : State := { s with key := k }

/-- `run_state <- r` (R31). -/
def State.setRunState (s : State) (r : RunState) : State := { s with runState := r }

/-- `paused <- p` (R32). -/
def State.setPaused (s : State) (p : Bool) : State := { s with paused := p }

/-- `rng_state <- g` (R33). -/
def State.setRng (s : State) (g : Nat) : State := { s with rng := g }

/-- Replace memory (R60). -/
def State.setMem (s : State) (m : Memory) : State := { s with mem := m }

/-- Replace the list of waiting events (log 1). -/
def State.setPending (s : State) (es : List Event) : State := { s with pending := es }

/-- One draw of the random source: `(r, s) = RngNext(rng_state); rng_state <- s` (R171). -/
def State.drawRandom (s : State) : Byte × State :=
  ((Config.rngNext s.rng).1, s.setRng (Config.rngNext s.rng).2)

/-! ## The call stack (R26) -/

/-- Push: `stack[SP] <- value; SP <- SP + 1`; none when `SP = 16` (R26). -/
def State.push (s : State) (a : Word) : Option State :=
  if h : s.SP.val < 16 then
    some { s with stack := s.stack.set s.SP.val a, SP := ⟨s.SP.val + 1, by omega⟩ }
  else none

/-- Pop: `SP <- SP - 1; value = stack[SP]`, the slot keeps its contents; none when `SP = 0` (R26). -/
def State.pop (s : State) : Option (Word × State) :=
  if h : 0 < s.SP.val then
    some (s.stack[s.SP.val - 1]'(by omega), { s with SP := ⟨s.SP.val - 1, by omega⟩ })
  else none

/-! ## The framebuffer (R29) -/

/-- The framebuffer with every pixel off. -/
def Framebuffer.clear : Framebuffer := Vector.replicate 32 (Vector.replicate 64 false)

/-- `fb[y][x]`. -/
def Framebuffer.pixel (fb : Framebuffer) (px : Fin 64) (py : Fin 32) : Bool := fb[py][px]

/-- `fb[y][x] <- fb[y][x] ^ 1`. -/
def Framebuffer.toggle (fb : Framebuffer) (px : Fin 64) (py : Fin 32) : Framebuffer :=
  fb.set py (fb[py].set px (!fb.pixel px py))

/-! ## Instruction fetch (R65, R121) -/

/-- Both bytes of the word at `pc` lie inside memory (R121). -/
def State.fetchable (s : State) : Bool := decide (s.pc.toNat ≤ 0xFFE)

/-- `FetchWord(pc) = (mem[pc] << 8) | mem[pc + 1]`, without `EA` (R65, R70). -/
def State.fetchWord (s : State) : Word :=
  wordOfBytes (s.readByte s.pc.toNat) (s.readByte (s.pc.toNat + 1))

/-! ## Taking an execution fault (R124, R257) -/

/-- Fault commit: every element as it was when the tick began, `pc = pc0` included, and
`run_state <- Faulted(kind, pc0, word)` (R124). The one shared operation of fetch, decode and execute. -/
def State.takeFault (s : State) (kind : FaultKind) (pc0 : Word) (word : Option Word) (info : Option Nat) : State :=
  { s with pc := pc0, runState := .faulted ⟨kind, pc0, word, info⟩ }

/-- `raise K(info)` in the execute stage of instruction `i`, before its first write: fetch's `pc <- pc0 + 2` is revoked, and
the word recorded is the instruction's own (R124, log 9). -/
def State.raise (s : State) (kind : FaultKind) (i : Instr) (info : Option Nat) : Result :=
  .next (s.takeFault kind (s.pc - 2) (some (encode i)) info)

/-- The lowest address above `0xFFF` among `base, ..., base + count - 1`, when the policy is `fatal` (R69). -/
def outOfBounds : BoundsPolicy → Nat → Nat → Option Nat
  | .wrap, _, _ => none
  | .fatal, base, count => ((List.range count).map (base + ·)).find? (fun a => decide (0xFFF < a))

/-- Check all data addresses `base .. base + count - 1` of instruction `i` before it changes any state (R69), then go on. -/
def State.guardRange (s : State) (i : Instr) (base count : Nat) (k : Result) : Result :=
  match outOfBounds s.config.boundsPolicy base count with
  | some a => s.raise .memoryOutOfBounds i (some a)
  | none => k

end Sys2Proof.Machine
end

