-- ==== Sys2Proof/Machine/Operands.lean ====
section
/-! DEFINITION. Operands.lean: the values an instruction forms from its operands and implicit registers (R94, R172, R189). -/

namespace Sys2Proof.Machine

/-- A 12-bit address operand as a 16-bit value: `zext_16(NNN)` (R94). -/
def zextAddr (nnn : BitVec 12) : Word := nnn.setWidth 16

/-- A byte as a 16-bit value: `zext_16(v)` (R9). -/
def zextByte (b : Byte) : Word := b.setWidth 16

/-- The data address `I + k`, a natural number not yet reduced (R189, R172). -/
def State.dataAddr (s : State) (k : Nat) : Nat := s.I.toNat + k

/-- The low nibble of a register: the key number of `EX9E`, `EXA1` (R236) and the glyph number of `FX29` (R192). -/
def lowNibble (b : Byte) : Nibble := ⟨b.toNat % 16, Nat.mod_lt _ (by decide)⟩

/-- `FONT_BASE + d * 5` (R192, R63). -/
def glyphAddr (d : Nibble) : Word := BitVec.ofNat 16 (d.val * 5)

/-- `v div 100`, `(v div 10) mod 10`, `v mod 10`: the three decimal digits, hundreds first (R193). -/
def bcdDigits (b : Byte) : List Byte :=
  [BitVec.ofNat 8 (b.toNat / 100), BitVec.ofNat 8 (b.toNat / 10 % 10), BitVec.ofNat 8 (b.toNat % 10)]

/-- The registers `V[0]` to `V[X]`, ascending, both ends inclusive (R194, R195). -/
def regsUpTo (x : Nibble) : List Nibble := (List.finRange 16).take (x.val + 1)

/-- A pixel column: `a mod 64` (R211). -/
def column (a : Nat) : Fin 64 := ⟨a % 64, Nat.mod_lt _ (by decide)⟩

/-- A pixel row: `a mod 32` (R211). -/
def row (a : Nat) : Fin 32 := ⟨a % 32, Nat.mod_lt _ (by decide)⟩

/-- Column `c` of a sprite's row byte; bit 7 is the leftmost pixel (R211). -/
def spriteBit (b : Byte) (c : Nat) : Bool := b.getLsbD (7 - c)

/-- The keys that go from up to down between two vectors; the lowest, if any (R233). -/
def lowestNewKey (old new : Keys) : Option Nibble :=
  (List.finRange 16).find? (fun k => !old[k] && new[k])

/-- A key's index as a register value (R233). -/
def keyValue (k : Nibble) : Byte := BitVec.ofNat 8 k.val

end Sys2Proof.Machine
end

