-- ==== Sys2Proof/Machine/Flags.lean ====
section
/-! DEFINITION. Flags.lean: the values written to `VF` as a flag, all of them (R22). -/

namespace Sys2Proof.Machine

/-- A truth value as the flag byte 1 or 0. -/
def flagByte (c : Bool) : Byte := if c then 1 else 0

/-- `8XY4`: 1 if the sum exceeds 255, "the carry out of bit 7" (R166). -/
def carryFlag (a b : Byte) : Byte := flagByte (decide (255 < a.toNat + b.toNat))

/-- `8XY5`, `8XY7`: 1 if minuend `m` is at least subtrahend `s`, "1 means no borrow" (R167, R169). -/
def noBorrowFlag (m s : Byte) : Byte := flagByte (decide (s.toNat ≤ m.toNat))

/-- `8XY6`: the bit shifted out, `V[X] & 1` (R168). -/
def shiftRightFlag (a : Byte) : Byte := a &&& 1

/-- `8XYE`: the bit shifted out, `(V[X] >> 7) & 1` (R170). -/
def shiftLeftFlag (a : Byte) : Byte := (a >>> 7) &&& 1

/-- `DXYN`: 1 if a pixel went from on to off (R211). -/
def collisionFlag (hit : Bool) : Byte := flagByte hit

end Sys2Proof.Machine
end

