-- ==== Sys2Proof/Machine/Alu.lean ====
section
/-! DEFINITION. Alu.lean: register load, arithmetic, logic, shift, random (`42_alu.md`). None mentions `pc`, none can fault.
Statements run in the order the spec writes them, each seeing the writes of the ones before (R9, R173). -/

namespace Sys2Proof.Machine

/-- `6XNN` (R160): `V[X] <- NN`. -/
def exec6XNN (x : Nibble) (nn : Byte) (s : State) : Result := .next (s.setV x nn)

/-- `7XNN` (R161): `V[X] <- (V[X] + NN) mod 256`, no flag. -/
def exec7XNN (x : Nibble) (nn : Byte) (s : State) : Result := .next (s.setV x (s.getV x + nn))

/-- `8XY0` (R162): `V[X] <- V[Y]`. -/
def exec8XY0 (x y : Nibble) (s : State) : Result := .next (s.setV x (s.getV y))

/-- `8XY1` (R163): `V[X] <- V[X] | V[Y]`, `VF` not written. -/
def exec8XY1 (x y : Nibble) (s : State) : Result := .next (s.setV x (s.getV x ||| s.getV y))

/-- `8XY2` (R164): `V[X] <- V[X] & V[Y]`, `VF` not written. -/
def exec8XY2 (x y : Nibble) (s : State) : Result := .next (s.setV x (s.getV x &&& s.getV y))

/-- `8XY3` (R165): `V[X] <- V[X] ^ V[Y]`, `VF` not written. -/
def exec8XY3 (x y : Nibble) (s : State) : Result := .next (s.setV x (s.getV x ^^^ s.getV y))

/-- `8XY4` (R166): the sum to `V[X]`, then the carry to `VF`. -/
def exec8XY4 (x y : Nibble) (s : State) : Result :=
  .next ((s.setV x (s.getV x + s.getV y)).setVF (carryFlag (s.getV x) (s.getV y)))

/-- `8XY5` (R167): `a - b` to `V[X]`, then `a >= b` to `VF`, with `a`, `b` read first. -/
def exec8XY5 (x y : Nibble) (s : State) : Result :=
  .next ((s.setV x (s.getV x - s.getV y)).setVF (noBorrowFlag (s.getV x) (s.getV y)))

/-- `8XY6` (R168): the bit shifted out to `VF`, then `V[X]`, "read again here, after the flag write", shifted right; `Y` is
ignored (R99). -/
def exec8XY6 (x _y : Nibble) (s : State) : Result :=
  let s1 := s.setVF (shiftRightFlag (s.getV x))
  .next (s1.setV x (s1.getV x >>> 1))

/-- `8XY7` (R169): `b - a` to `V[X]`, then `b >= a` to `VF`, with `a = V[X]`, `b = V[Y]` read first. -/
def exec8XY7 (x y : Nibble) (s : State) : Result :=
  .next ((s.setV x (s.getV y - s.getV x)).setVF (noBorrowFlag (s.getV y) (s.getV x)))

/-- `8XYE` (R170): the bit shifted out to `VF`, then `V[X]`, "read again here, after the flag write", shifted left; `Y` is
ignored (R99). -/
def exec8XYE (x _y : Nibble) (s : State) : Result :=
  let s1 := s.setVF (shiftLeftFlag (s.getV x))
  .next (s1.setV x (s1.getV x <<< 1))

/-- `CXNN` (R171): one draw, also when `NN = 0`; `V[X] <- r & NN`. -/
def execCXNN (x : Nibble) (nn : Byte) (s : State) : Result :=
  .next (s.drawRandom.2.setV x (s.drawRandom.1 &&& nn))

end Sys2Proof.Machine
end

