-- ==== Sys2Proof/Machine/Display.lean ====
section
/-! DEFINITION. Display.lean: clear and draw (`44_display.md`). -/

namespace Sys2Proof.Machine

/-- `00E0` (R210): every pixel off; `VF` is not written. -/
def exec00E0 (s : State) : Result := .next (s.setFb Framebuffer.clear)

/-- One 1 bit of a sprite: "if fb[py][px] = 1: hit = 1; fb[py][px] <- fb[py][px] ^ 1" (R211). -/
def drawPixel (acc : Framebuffer × Bool) (px : Fin 64) (py : Fin 32) : Framebuffer × Bool :=
  (acc.1.toggle px py, acc.2 || acc.1.pixel px py)

/-- One row byte `b` of a sprite at column `x0` and row `y`, the wraparound on every pixel (R211). -/
def drawRow (b : Byte) (x0 y : Nat) (acc : Framebuffer × Bool) : Framebuffer × Bool :=
  (List.range 8).foldl (fun acc c => if spriteBit b c then drawPixel acc (column (x0 + c)) (row y) else acc) acc

/-- Rows `0` to `n - 1` of the sprite at `I`, from the framebuffer with `hit = 0` (R211). -/
def State.drawSprite (s : State) (x0 y0 n : Nat) : Framebuffer × Bool :=
  (List.range n).foldl (fun acc r => drawRow (s.memRead (s.dataAddr r)) x0 (y0 + r) acc) (s.fb, false)

/-- `DXYN` (R211): `V[X]`, `V[Y]` read first, the sprite drawn, then `V[15] <- hit`, also when `N = 0`. -/
def execDXYN (x y n : Nibble) (s : State) : Result :=
  s.guardRange (.opDXYN x y n) (s.dataAddr 0) n.val
    (.next ((s.setFb (s.drawSprite (s.getV x).toNat (s.getV y).toNat n.val).1).setVF
      (collisionFlag (s.drawSprite (s.getV x).toNat (s.getV y).toNat n.val).2)))

end Sys2Proof.Machine
end

