-- ==== Sys2Proof/Machine/Flow.lean ====
section
/-! DEFINITION. Flow.lean: control transfer (`41_flow.md`). On entry `pc = pc0 + 2` (R123); none of the eight writes `V`,
memory, `I`, a timer, the framebuffer or the keys (R148). -/

namespace Sys2Proof.Machine

/-- `00EE` (R140): `if SP = 0: raise StackUnderflow; SP <- SP - 1; pc <- stack[SP]`. -/
def exec00EE (s : State) : Result :=
  match s.pop with
  | some (a, s') => .next (s'.setPc a)
  | none => s.raise .stackUnderflow .op00EE none

/-- `1NNN` (R141): `pc <- NNN`. -/
def exec1NNN (nnn : BitVec 12) (s : State) : Result := .next (s.setPc (zextAddr nnn))

/-- `2NNN` (R142): `if SP = 16: raise StackOverflow; stack[SP] <- pc; SP <- SP + 1; pc <- NNN`. -/
def exec2NNN (nnn : BitVec 12) (s : State) : Result :=
  match s.push s.pc with
  | some s' => .next (s'.setPc (zextAddr nnn))
  | none => s.raise .stackOverflow (.op2NNN nnn) none

/-- `3XNN` (R143): `if V[X] = NN: skip`. -/
def exec3XNN (x : Nibble) (nn : Byte) (s : State) : Result := .next (s.skipIf (s.getV x == nn))

/-- `4XNN` (R144): `if V[X] != NN: skip`. -/
def exec4XNN (x : Nibble) (nn : Byte) (s : State) : Result := .next (s.skipIf (s.getV x != nn))

/-- `5XY0` (R145): `if V[X] = V[Y]: skip`. -/
def exec5XY0 (x y : Nibble) (s : State) : Result := .next (s.skipIf (s.getV x == s.getV y))

/-- `9XY0` (R146): `if V[X] != V[Y]: skip`. -/
def exec9XY0 (x y : Nibble) (s : State) : Result := .next (s.skipIf (s.getV x != s.getV y))

/-- `BNNN` (R147): `pc <- NNN + V[0]`, exact, no reduction. -/
def execBNNN (nnn : BitVec 12) (s : State) : Result := .next (s.setPc (zextAddr nnn + zextByte (s.getV 0)))

end Sys2Proof.Machine
end

