-- ==== Sys2Proof/Machine/IndexMemory.lean ====
section
/-! DEFINITION. IndexMemory.lean: address register and memory transfer (`43_index_memory.md`). None changes its base register
`I` unless that is its destination (R189), and none mentions `pc`. -/

namespace Sys2Proof.Machine

/-- `ANNN` (R190): `I <- NNN`. -/
def execANNN (nnn : BitVec 12) (s : State) : Result := .next (s.setI (zextAddr nnn))

/-- `FX1E` (R191): `I <- (I + V[X]) mod 65536`, no flag. -/
def execFX1E (x : Nibble) (s : State) : Result := .next (s.setI (s.I + zextByte (s.getV x)))

/-- `FX29` (R192): `I <- FONT_BASE + (V[X] & 0x0F) * 5`. -/
def execFX29 (x : Nibble) (s : State) : Result := .next (s.setI (glyphAddr (lowNibble (s.getV x))))

/-- `MemWrite` of the values of `vs` at `a`, `a + 1`, ..., each byte through `EA` on its own (R68). -/
def State.memWriteList (s : State) : Nat → List Byte → State
  | _, [] => s
  | a, b :: rest => State.memWriteList (s.memWrite a b) (a + 1) rest

/-- `V[i] <- MemRead(a + i, 1)` for the registers `i` of a list (R195). -/
def State.loadRegs (s : State) (a : Nat) (is : List Nibble) : State :=
  is.foldl (fun t i => t.setV i (t.memRead (a + i.val))) s

/-- `FX33` (R193): the three decimal digits of `V[X]` to `I`, `I + 1`, `I + 2`. -/
def execFX33 (x : Nibble) (s : State) : Result :=
  s.guardRange (.opFX33 x) (s.dataAddr 0) 3
    (.next (s.memWriteList (s.dataAddr 0) (bcdDigits (s.getV x))))

/-- `FX55` (R194): `V[0]` to `V[X]` to `I`, ..., `I + X`. -/
def execFX55 (x : Nibble) (s : State) : Result :=
  s.guardRange (.opFX55 x) (s.dataAddr 0) (x.val + 1)
    (.next (s.memWriteList (s.dataAddr 0) ((regsUpTo x).map s.getV)))

/-- `FX65` (R195): `V[0]` to `V[X]` from `I`, ..., `I + X`. -/
def execFX65 (x : Nibble) (s : State) : Result :=
  s.guardRange (.opFX65 x) (s.dataAddr 0) (x.val + 1)
    (.next (s.loadRegs (s.dataAddr 0) (regsUpTo x)))

end Sys2Proof.Machine
end

