-- ==== Sys2Proof/Machine/KeypadTimer.lean ====
section
/-! DEFINITION. KeypadTimer.lean: keypad and timer instructions (`45_keypad_timer.md`). None can fault. -/

namespace Sys2Proof.Machine

/-- `key[k]` (R30). -/
def State.keyDown (s : State) (k : Nibble) : Bool := s.key[k]

/-- `EX9E` (R230): `k = V[X] & 0x0F; if key[k] = 1: skip`. -/
def execEX9E (x : Nibble) (s : State) : Result := .next (s.skipIf (s.keyDown (lowNibble (s.getV x))))

/-- `EXA1` (R231): `k = V[X] & 0x0F; if key[k] = 0: skip`. -/
def execEXA1 (x : Nibble) (s : State) : Result := .next (s.skipIf (!s.keyDown (lowNibble (s.getV x))))

/-- `FX07` (R232): `V[X] <- DT`. -/
def execFX07 (x : Nibble) (s : State) : Result := .next (s.setV x s.DT)

/-- `FX0A` (R233): `run_state <- WaitKey(X)`; `V[X]` is written by the `KeyUpdate` that ends the wait. -/
def execFX0A (x : Nibble) (s : State) : Result := .next (s.setRunState (.waitKey x))

/-- `FX15` (R234): `DT <- V[X]`. -/
def execFX15 (x : Nibble) (s : State) : Result := .next (s.setDT (s.getV x))

/-- `FX18` (R235): `ST <- V[X]`. -/
def execFX18 (x : Nibble) (s : State) : Result := .next (s.setST (s.getV x))

end Sys2Proof.Machine
end

