-- ==== Sys2Proof/Machine/Events.lean ====
section
/-! DEFINITION. Events.lean: the events other than `InstrTick` (`60_exceptions.md`, `70_reset_and_hazards.md`), and what the
core shows its collaborators. -/

namespace Sys2Proof.Machine

/-- "if DT > 0: DT <- DT - 1": saturates at 0 (R266). -/
def countDown (t : Byte) : Byte := if t = 0 then 0 else t - 1

/-- `TimerTick` (R266), effective in every run state and whether or not paused (R267). -/
def State.timerTick (s : State) : State := (s.setDT (countDown s.DT)).setST (countDown s.ST)

/-- The resolution of a pending `FX0A` (R233): the lowest newly down key to `V[x]`, and `run_state <- Running`. -/
def State.resolveWait (s : State) (keys : Keys) : State :=
  match s.runState with
  | .waitKey x =>
    match lowestNewKey s.key keys with
    | some k => (s.setV x (keyValue k)).setRunState .running
    | none => s
  | _ => s

/-- `KeyUpdate(K)` (R263): the wait resolution, then `key <- K`. -/
def State.keyUpdate (s : State) (keys : Keys) : State := (s.resolveWait keys).setKey keys

/-- `Reset` (R300): every element at its value of R36; the configuration and the environment's further events stay. -/
def State.resetEvent (s : State) : State := State.resetWith s.config s.pending

/-- What `LoadRom` returns to its caller (R250, R301). -/
inductive LoadResult where
  | ok
  | romTooLarge
deriving DecidableEq, Repr

/-- `MAX_ROM = 4096 - ENTRY_POINT` (R303). -/
def maxRom (cfg : Config) : Nat := memSize - cfg.entryPoint.addr

/-- The memory after a load: `mem[0x200..0xFFF]` zeroed, then the image copied (R301). -/
def State.loadedMem (s : State) (image : List Byte) : Memory :=
  Memory.writeBytes s.config.fontData (Memory.clearFrom 0x200 s.mem) s.config.entryPoint.addr image

/-- `LoadRom(bytes)` (R301, R302): rejected before any change when longer than `MAX_ROM`. -/
def State.loadRom (s : State) (image : List Byte) : State × LoadResult :=
  if maxRom s.config < image.length then (s, .romTooLarge)
  else
    (((s.setMem (s.loadedMem image)).setPc (BitVec.ofNat 16 s.config.entryPoint.addr)).setRunState .running, .ok)

/-- What the core answers to the issuer of an event: the result of a load (R301), the state of a `Snapshot` (R275; log 10). -/
inductive Reply where
  | none
  | load (r : LoadResult)
  | snapshot (s : State)
deriving DecidableEq, Repr

/-! ## The codes of the fault kinds (R250) -/

/-- The numeric code of a fault kind (R250, D6). -/
def FaultKind.code : FaultKind → Nat
  | .romTooLarge => 1
  | .stackOverflow => 2
  | .stackUnderflow => 3
  | .memoryOutOfBounds => 4
  | .unknownOpcode => 5
  | .pcOutOfBounds => 6

/-- The fault kind a `LoadRom` returns (R250, R256). -/
def LoadResult.kind : LoadResult → Option FaultKind
  | .ok => none
  | .romTooLarge => some .romTooLarge

/-! ## What the core shows (R268, R275) -/

/-- `tone_active = 1 if ST > 0 else 0` (R268). -/
def State.toneActive (s : State) : Bool := decide (0 < s.ST.toNat)

/-- The natural number whose bit `k` is element `k`. -/
def natOfBits : List Bool → Nat
  | [] => 0
  | b :: rest => b.toNat + 2 * natOfBits rest

/-- The framebuffer as a port: pixel `(x, y)` at bit index `y * 64 + x` (R275, D20). -/
def State.fbPort (s : State) : BitVec 2048 :=
  BitVec.ofNat 2048 (natOfBits (s.fb.toList.flatMap (fun r => r.toList)))

/-- The key vector as a port: key `k` at bit `k` (R275, D20). -/
def State.keyPort (s : State) : BitVec 16 := BitVec.ofNat 16 (natOfBits s.key.toList)

end Sys2Proof.Machine
end

