-- ==== Sys2Proof/Machine/Tick.lean ====
section
/-! DEFINITION. Tick.lean: the event `InstrTick` (`40_cycle.md`) and the application of an event. -/

namespace Sys2Proof.Machine

/-- An `InstrTick` executes an instruction: `run_state = Running` and `paused = 0` (R120). -/
def State.enabled (s : State) : Bool := decide (s.runState = .running) && !s.paused

/-- Decode and execute stages on a fetched word; `pc` is still `pc0` here (R121, R122, R123). -/
def State.decodeExecute (s : State) (w : Word) : Result :=
  match decodeWord w with
  | .ok i => exec i s.advancePc
  | .error _ => .next (s.takeFault .unknownOpcode s.pc (some w) none)

/-- One fetch-decode-execute cycle (R121, R122, R123, under R124). -/
def State.cycle (s : State) : Result :=
  if s.fetchable then s.decodeExecute s.fetchWord
  else .next (s.takeFault .pcOutOfBounds s.pc none none)

/-- `InstrTick` (R120): one cycle if enabled, else "no state change at all". -/
def State.instrTick (s : State) : Result := if s.enabled then s.cycle else .next s

/-- Apply one event to the whole state, atomically (R10). -/
def State.applyEvent (s : State) : Event → Result
  | .instrTick => s.instrTick
  | .timerTick => .next s.timerTick
  | .keyUpdate keys => .next (s.keyUpdate keys)
  | .reset => .next s.resetEvent
  | .loadRom image => .next (s.loadRom image).1
  | .pause => .next (s.setPaused true)
  | .resume => .next (s.setPaused false)
  | .snapshot => .next s

/-- What the issuer of an event is told, from the state before it (R275, R301; log 10). -/
def State.reply (s : State) : Event → Reply
  | .loadRom image => .load (s.loadRom image).2
  | .snapshot => .snapshot s
  | .instrTick | .timerTick | .keyUpdate _ | .reset | .pause | .resume => .none

/-- The next event the environment delivers: the oldest waiting one, and with none waiting an `InstrTick` (log 1). -/
def State.takeEvent (s : State) : Event × State :=
  match s.pending with
  | [] => (.instrTick, s)
  | e :: rest => (e, s.setPending rest)

/-- Apply the next event (R270: one at a time, each to the state left by the one before). -/
def State.nextEvent (s : State) : Result := s.takeEvent.2.applyEvent s.takeEvent.1

/-- Where the next instruction is fetched once a program runs: at `pc` while the machine runs at a fetchable `pc`, else at
the entry point, where `LoadRom` sets `pc` (R301; log 11). -/
def State.fetchPoint (s : State) : Word :=
  if s.runState = .running ∧ s.fetchable = true then s.pc else BitVec.ofNat 16 s.config.entryPoint.addr

/-- The machine about to fetch and run word `w`: the word stored high byte first at the fetch point, running, not paused, no
event waiting (log 11). -/
def State.placeWord (s : State) (w : Word) : State :=
  ((((((s.setPending []).setPaused false).setRunState .running).setPc s.fetchPoint).writeByte s.fetchPoint.toNat (highByte w))).writeByte
    (s.fetchPoint.toNat + 1) (lowByte w)

end Sys2Proof.Machine
end

