-- ==== Sys2Proof/Machine/Step.lean ====
section
/-! DEFINITION. Step.lean: the step of the machine is the next event of the environment (R10, R270; log 1). -/

namespace Sys2Proof.Machine

/-- One step: the next event, applied atomically. -/
def step (s : State) : Host.Outcome State Fault Refusal := s.nextEvent

/-- `s` with the instruction whose bits are `w` (those at or above `nbits` zero) placed where the next step fetches it, and
the machine made ready to run it (log 11). -/
def State.withFetchWord (s : State) (nbits w : Nat) : State := s.placeWord (BitVec.ofNat 16 (w % 2 ^ nbits))

end Sys2Proof.Machine
end

