-- ==== Sys2Proof/Safety.lean ====
section
/-! DEFINITION. Safety.lean: the terms claims are stated in: the elements of state (R20), what a change leaves alone, which
event may write which element (R37), and the invariant of the machine. -/

namespace Sys2Proof.Machine

/-- The elements of state, as the table of R37 lists them. -/
inductive Element where
  | mem
  | V
  | pc
  | I
  | SP
  | stack
  | DT
  | ST
  | fb
  | key
  | runState
  | paused
  | rng
deriving DecidableEq, Repr

/-- An element has the same value in two states; memory is compared byte by byte, through the read of one byte. -/
def SameElement (s t : State) : Element → Prop
  | .mem => ∀ a, t.readByte a = s.readByte a
  | .V => ∀ r, t.getV r = s.getV r
  | .pc => t.pc = s.pc
  | .I => t.I = s.I
  | .SP => t.SP = s.SP
  | .stack => t.stack = s.stack
  | .DT => t.DT = s.DT
  | .ST => t.ST = s.ST
  | .fb => t.fb = s.fb
  | .key => t.key = s.key
  | .runState => t.runState = s.runState
  | .paused => t.paused = s.paused
  | .rng => t.rng = s.rng

/-- From `s` to `t` at most the listed elements change; the configuration and the waiting events never do. -/
def ChangesOnly (es : List Element) (s t : State) : Prop :=
  (∀ e, e ∉ es → SameElement s t e) ∧ t.config = s.config ∧ t.pending = s.pending

/-- Every general register outside the list keeps its value. -/
def RegsKeptExcept (written : List Nibble) (s t : State) : Prop := ∀ r, r ∉ written → t.getV r = s.getV r

/-- Every byte of memory outside the listed addresses reads as before. -/
def MemKeptExcept (stored : List Nat) (s t : State) : Prop := ∀ a, a ∉ stored → t.readByte a = s.readByte a

/-- The elements an instruction may write when it does not fault (R37, R123: "an instruction writes only the state its rule
names"); `pc` is here only for an instruction that mentions it. -/
def instrWrites : Instr → List Element
  | .op00E0 => [.fb]
  | .op00EE => [.pc, .SP]
  | .op2NNN _ => [.pc, .SP, .stack]
  | .op1NNN _ | .opBNNN _ => [.pc]
  | .op3XNN _ _ | .op4XNN _ _ | .op5XY0 _ _ | .op9XY0 _ _ | .opEX9E _ | .opEXA1 _ => [.pc]
  | .op6XNN _ _ | .op7XNN _ _ | .op8XY0 _ _ | .op8XY1 _ _ | .op8XY2 _ _ | .op8XY3 _ _ => [.V]
  | .op8XY4 _ _ | .op8XY5 _ _ | .op8XY6 _ _ | .op8XY7 _ _ | .op8XYE _ _ => [.V]
  | .opCXNN _ _ => [.V, .rng]
  | .opDXYN _ _ _ => [.fb, .V]
  | .opANNN _ | .opFX1E _ | .opFX29 _ => [.I]
  | .opFX07 _ | .opFX65 _ => [.V]
  | .opFX0A _ => [.runState]
  | .opFX15 _ => [.DT]
  | .opFX18 _ => [.ST]
  | .opFX33 _ | .opFX55 _ => [.mem]

/-- The elements an event may write: R37's table, and `V` for `Reset`, which its row `V` omits and R36 and R300 give (log 33). -/
def eventWrites : Event → List Element
  | .instrTick => [.mem, .V, .pc, .I, .SP, .stack, .DT, .ST, .fb, .runState, .rng]
  | .timerTick => [.DT, .ST]
  | .keyUpdate _ => [.key, .V, .runState]
  | .reset => [.mem, .V, .pc, .I, .SP, .stack, .DT, .ST, .fb, .key, .runState, .paused, .rng]
  | .loadRom _ => [.mem, .pc, .runState]
  | .pause | .resume => [.paused]
  | .snapshot => []

/-- No execution fault has been raised since the last `Reset` or load: "a faulted state is never a successful end of a run"
(R257). -/
def State.unfaulted (s : State) : Prop := ∀ r, s.runState ≠ .faulted r

/-- The data addresses `I .. I + count - 1` raise no fault: the policy is `wrap`, or they all lie in memory, or there are none
(R68, R69). -/
def State.dataInRange (s : State) (count : Nat) : Prop :=
  s.config.boundsPolicy = .wrap ∨ count = 0 ∨ s.I.toNat + count ≤ memSize

/-- The state after an execution fault raised while `pc0` is the address of the instruction: nothing but `run_state` differs
from the state `s` at the beginning of the tick (R124, D5). -/
def State.faultedAs (s : State) (kind : FaultKind) (word : Option Word) (info : Option Nat) : State :=
  { s with runState := .faulted ⟨kind, s.pc, word, info⟩ }

/-- The state at the beginning of the tick, from the state in which the execute stage runs: `pc` is `pc0` again (R121, R124). -/
def State.beforeFetch (s : State) : State := { s with pc := s.pc - 2 }

/-- `r` is the next state `s` with a fault of this kind recorded and nothing else changed; what the record holds beside the kind is
left open here. -/
def State.FaultsWith (s : State) (kind : FaultKind) (r : Result) : Prop :=
  ∃ record, record.kind = kind ∧ r = .next { s with runState := .faulted record }

/-- An enabled tick in this state raises `PcOutOfBounds` (R121, R251). -/
def State.fetchFaults (s : State) : Prop :=
  s.runState = .running → s.paused = false → s.FaultsWith .pcOutOfBounds s.instrTick

/-- A 1 bit of the sprite of `n` rows at `I`, drawn with its top-left pixel at column `x0` and row `y0`, falls on pixel
`(px, py)`: bit 7 of a row is leftmost, every coordinate wraps (R211). -/
def State.spriteCovers (s : State) (x0 y0 n : Nat) (px : Fin 64) (py : Fin 32) : Prop :=
  ∃ r c, r < n ∧ c < 8 ∧ (s.memRead (s.dataAddr r)).getLsbD (7 - c) = true ∧
    (x0 + c) % 64 = px.val ∧ (y0 + r) % 32 = py.val

/-- An `InstrTick` in this state executes instruction `i` (R120, R121, R122). -/
def State.runs (s : State) (i : Instr) : Prop :=
  s.enabled = true ∧ s.fetchable = true ∧ decodeWord s.fetchWord = .ok i

/-- A run between two states whose calls and returns balance: any event but `Reset` and any instruction but `2NNN` and `00EE`
at one level, and a successful call, a balanced run, and its return as one stretch (R140: "provided the pushes and pops in
between balance"). -/
inductive BalancedRun : State → State → Prop where
  | done (s : State) : BalancedRun s s
  | event {s t u : State} (e : Event) : e ≠ .instrTick → e ≠ .reset → s.applyEvent e = .next t → BalancedRun t u →
      BalancedRun s u
  | instr {s t u : State} (i : Instr) : s.runs i → i ≠ .op00EE → (∀ nnn, i ≠ .op2NNN nnn) → s.instrTick = .next t →
      BalancedRun t u → BalancedRun s u
  | nested {s t u v w : State} (nnn : BitVec 12) : s.runs (.op2NNN nnn) → s.SP.val < 16 → s.instrTick = .next t →
      BalancedRun t u → u.runs .op00EE → u.instrTick = .next v → BalancedRun v w → BalancedRun s w

/-- A fault record is as R34 says: an execution kind, the word absent exactly for `PcOutOfBounds`, an address exactly for
`MemoryOutOfBounds` (R69, log 8). -/
def FaultRecord.sound (r : FaultRecord) : Prop :=
  r.kind ≠ .romTooLarge ∧ (r.word = none ↔ r.kind = .pcOutOfBounds) ∧ (r.info ≠ none ↔ r.kind = .memoryOutOfBounds)

/-- The invariant every step keeps: memory in its canonical form; `pc` at most `0x10FE`, "the largest value any rule can give
it" (R24); no slot of the stack above `0x1000`, the address after the last fetchable one (R121); and a recorded fault sound,
with `pc` still at the faulting instruction (R34, R258). -/
structure State.Inv (s : State) : Prop where
  memCanonical : Memory.wf s.config.fontData s.mem = true
  pcBounded : s.pc.toNat ≤ 0x10FE
  stackBounded : ∀ k : Fin 16, s.stack[k].toNat ≤ 0x1000
  faultPrecise : ∀ r, s.runState = .faulted r → r.sound ∧ r.pc = s.pc

end Sys2Proof.Machine
end

