-- ==== Sys2Proof/Certificates/Slice0/Obligations.lean ====
section
/-! DEFINITION. Obligations.lean: the statements for the provers. In a statement about `exec`, the state is the one of the execute
stage: `pc` is already `pc0 + 2` (R123), so an unchanged `pc` is the address of the next instruction. A clause on `encode` says
the format, mask and match of the rule: the word of every choice of operands. The frames (`ChangesOnly`, `RegsKeptExcept`,
`MemKeptExcept`) rest on R123 and the spec's closed-world reading D10 (log 18). -/

open Sys2Proof Sys2Proof.Machine

/-! ## Encoding -/

/-- Words of the spec's examples (R103, vectors T4, T6, T59, T98, T124, T140 of `95_test_vectors.md`) decode to what they stand
for, or are unknown. -/
def Obligations.SpecWordsDecodeAsWritten : Prop :=
  decodeWord 0x22FC = .ok (.op2NNN 0x2FC) ∧ decodeWord 0x00E0 = .ok .op00E0 ∧ decodeWord 0x8124 = .ok (.op8XY4 1 2) ∧
  decodeWord 0xF133 = .ok (.opFX33 1) ∧ decodeWord 0xD122 = .ok (.opDXYN 1 2 2) ∧ decodeWord 0xE29E = .ok (.opEX9E 2) ∧
  decodeWord 0x0000 = .error (.unknownOpcode 0x0000) ∧ decodeWord 0x01E0 = .error (.unknownOpcode 0x01E0)

/-- R91: the six fields of any word are the bit slices of its table, and overlap as it says; R103: `0x22FC`. -/
def Obligations.FieldsAreTheBitSlicesOfTheWord : Prop :=
  (∀ w : Word,
    (Fields.ofWord w).op.toNat = w.toNat / 0x1000 ∧
    (Fields.ofWord w).x.toNat = w.toNat / 0x100 % 0x10 ∧
    (Fields.ofWord w).y.toNat = w.toNat / 0x10 % 0x10 ∧
    (Fields.ofWord w).n.toNat = w.toNat % 0x10 ∧
    (Fields.ofWord w).nn.toNat = w.toNat % 0x100 ∧
    (Fields.ofWord w).nnn.toNat = w.toNat % 0x1000 ∧
    (Fields.ofWord w).wellFormed = true) ∧
  Fields.ofWord 0x22FC = ⟨0x2, 0x2, 0xF, 0xC, 0xFC, 0x2FC⟩

/-- Decode and encode agree for every instruction and every operand, as a word and as bytes in memory order (R65, R90, R96). The
operand `Y` of `8XY6` and `8XYE`, which the spec ignores, is one by the model's own DESIGN CHOICE (log 29). -/
def Obligations.DecodeOfEncodeIsTheInstruction : Prop :=
  ∀ i : Instr, decodeWord (encode i) = .ok i ∧ ∀ rest, decodeBytes (encodeBytes i ++ rest) = .ok (i, rest)

/-- Whatever instruction a word decodes to encodes back to that word (R96). That this holds of `8XY6` and `8XYE` too is the model's
own DESIGN CHOICE (log 29): the spec says only that their `Y` is ignored (R99), and the syntax keeps it as an operand. -/
def Obligations.EncodeOfDecodeIsTheWord : Prop :=
  ∀ (w : Word) (i : Instr), decodeWord w = .ok i → encode i = w

/-- "A word selects an instruction exactly when `(w & mask) = match`", and "no word matches two rows" (R95; exact
matching is the spec's decision D7, log 29). -/
def Obligations.WordDecodesExactlyWhenOneRowSelectsIt : Prop :=
  (∀ w : Word, (∃ i, decodeWord w = .ok i) ↔ ∃ r ∈ opcodeRows, r.selects w = true) ∧
  (∀ (w : Word) (i : Instr), decodeWord w = .ok i →
    i.row ∈ opcodeRows ∧ ∀ r ∈ opcodeRows, r.selects w = true ↔ r = i.row)

/-- The unknown words are exactly those of the table of R98, nibble by nibble (the spec's decision D7; log 29). -/
def Obligations.UnknownWordsAreExactlyTheListedOnes : Prop :=
  ∀ w : Word, decodeWord w = .error (.unknownOpcode w) ↔
    (w.toNat / 0x1000 = 0x0 ∧ w ≠ 0x00E0 ∧ w ≠ 0x00EE) ∨
    (w.toNat / 0x1000 = 0x5 ∧ w.toNat % 0x10 ≠ 0) ∨
    (w.toNat / 0x1000 = 0x8 ∧ w.toNat % 0x10 ∈ [0x8, 0x9, 0xA, 0xB, 0xC, 0xD, 0xF]) ∨
    (w.toNat / 0x1000 = 0x9 ∧ w.toNat % 0x10 ≠ 0) ∨
    (w.toNat / 0x1000 = 0xE ∧ w.toNat % 0x100 ∉ [0x9E, 0xA1]) ∨
    (w.toNat / 0x1000 = 0xF ∧ w.toNat % 0x100 ∉ [0x07, 0x0A, 0x15, 0x18, 0x1E, 0x29, 0x33, 0x55, 0x65])

/-! ## The step -/

/-- When the two bytes at `pc` decode to `i` and the machine is running, not paused and at a fetchable `pc`, a step with no
event waiting (or with an `InstrTick` first, log 1) is `exec i` at the state with `pc` moved past the word (R120 to R123). -/
def Obligations.StepRunsTheDecodedInstruction : Prop :=
  ∀ (s : State) (i : Instr), s.runState = .running → s.paused = false → s.pc.toNat ≤ 0xFFE →
    decodeBytes [s.readByte s.pc.toNat, s.readByte (s.pc.toNat + 1)] = .ok (i, []) →
    (s.pending = [] → step s = exec i { s with pc := s.pc + 2 }) ∧
    (∀ rest, s.pending = .instrTick :: rest → step s = exec i { s with pc := s.pc + 2, pending := rest })

/-- The model's convention of log 1: a step applies the oldest waiting event and takes it off the list, and with none waiting an
`InstrTick`; so events are applied one at a time, each to the state left by the one before (R270). -/
def Obligations.StepAppliesTheOldestWaitingEvent : Prop :=
  ∀ s : State, (s.pending = [] → step s = s.applyEvent .instrTick) ∧
    (∀ e rest, s.pending = e :: rest → step s = State.applyEvent { s with pending := rest } e)

/-- R120: "if run_state = Running and paused = 0: one cycle ... else: no state change at all", the cycle being fetch, decode,
execute, each with its fault. Where the fetch fault lies is the spec's decision D2 (log 19). -/
def Obligations.InstrTickRunsOneCycleOnlyWhenEnabled : Prop :=
  ∀ s : State,
    (s.runState = .running → s.paused = false →
      (0xFFE < s.pc.toNat → s.FaultsWith .pcOutOfBounds (s.applyEvent .instrTick)) ∧
      (s.pc.toNat ≤ 0xFFE →
        (∀ i, decodeWord s.fetchWord = .ok i → s.applyEvent .instrTick = exec i { s with pc := s.pc + 2 }) ∧
        (∀ e, decodeWord s.fetchWord = .error e → s.FaultsWith .unknownOpcode (s.applyEvent .instrTick)))) ∧
    (s.runState ≠ .running ∨ s.paused = true → s.applyEvent .instrTick = .next s)

/-- A word no row of the opcode map selects raises `UnknownOpcode` with the word recorded, a `pc` above `0xFFE` raises
`PcOutOfBounds` with no word, and nothing else changes (R98, R251, R252). The content of the record is the spec's decision D5
(log 20), the place of the fetch check its D2 (log 19). -/
def Obligations.FetchAndDecodeFaultsAreRecorded : Prop :=
  ∀ s : State, s.runState = .running → s.paused = false →
    (0xFFE < s.pc.toNat → s.applyEvent .instrTick = .next (s.faultedAs .pcOutOfBounds none none)) ∧
    (s.pc.toNat ≤ 0xFFE →
      (∀ r ∈ opcodeRows, r.selects (s.readByte s.pc.toNat ++ s.readByte (s.pc.toNat + 1)) = false) →
      s.applyEvent .instrTick =
        .next (s.faultedAs .unknownOpcode (some (s.readByte s.pc.toNat ++ s.readByte (s.pc.toNat + 1))) none))

/-- Once faulted, every event but `Reset` and an accepted `LoadRom` leaves the record, `pc`, the registers and memory alone
(R259; the two exits are the spec's decision D25). -/
def Obligations.FaultedMachineStaysFaulted : Prop :=
  ∀ (s : State) (r : FaultRecord) (e : Event), s.runState = .faulted r → e ≠ .reset →
    (∀ image, e = .loadRom image → 4096 - s.config.entryPoint.addr < image.length) →
    ∃ t, s.applyEvent e = .next t ∧ t.runState = .faulted r ∧ ChangesOnly [.DT, .ST, .key, .paused] s t

/-! ## Register load, arithmetic, logic, shift, random -/

/-- R160: `V[X] <- NN`. -/
def Obligations.LoadByteWritesItsRegister : Prop :=
  ∀ (x : Nibble) (nn : Byte) (s : State),
    (encode (.op6XNN x nn)).toNat = 0x6000 + x.val * 0x100 + nn.toNat ∧
    ∃ t, exec (.op6XNN x nn) s = .next t ∧ t.getV x = nn ∧ RegsKeptExcept [x] s t ∧ ChangesOnly [.V] s t

/-- R161: `V[X] <- (V[X] + NN) mod 256`, no flag. -/
def Obligations.AddByteWrapsAndSetsNoFlag : Prop :=
  ∀ (x : Nibble) (nn : Byte) (s : State),
    (encode (.op7XNN x nn)).toNat = 0x7000 + x.val * 0x100 + nn.toNat ∧
    ∃ t, exec (.op7XNN x nn) s = .next t ∧ (t.getV x).toNat = ((s.getV x).toNat + nn.toNat) % 256 ∧
      RegsKeptExcept [x] s t ∧ ChangesOnly [.V] s t

/-- R162 to R165: copy, or, and, exclusive or, bit by bit; `VF` is written only as the destination. -/
def Obligations.CopyAndLogicWriteOneRegister : Prop :=
  ∀ (x y : Nibble) (s : State),
    ((encode (.op8XY0 x y)).toNat = 0x8000 + x.val * 0x100 + y.val * 0x10 ∧
      ∃ t, exec (.op8XY0 x y) s = .next t ∧ t.getV x = s.getV y ∧ RegsKeptExcept [x] s t ∧ ChangesOnly [.V] s t) ∧
    ((encode (.op8XY1 x y)).toNat = 0x8001 + x.val * 0x100 + y.val * 0x10 ∧
      ∃ t, exec (.op8XY1 x y) s = .next t ∧
        (∀ k < 8, (t.getV x).getLsbD k = ((s.getV x).getLsbD k || (s.getV y).getLsbD k)) ∧
        RegsKeptExcept [x] s t ∧ ChangesOnly [.V] s t) ∧
    ((encode (.op8XY2 x y)).toNat = 0x8002 + x.val * 0x100 + y.val * 0x10 ∧
      ∃ t, exec (.op8XY2 x y) s = .next t ∧
        (∀ k < 8, (t.getV x).getLsbD k = ((s.getV x).getLsbD k && (s.getV y).getLsbD k)) ∧
        RegsKeptExcept [x] s t ∧ ChangesOnly [.V] s t) ∧
    ((encode (.op8XY3 x y)).toNat = 0x8003 + x.val * 0x100 + y.val * 0x10 ∧
      ∃ t, exec (.op8XY3 x y) s = .next t ∧
        (∀ k < 8, (t.getV x).getLsbD k = ((s.getV x).getLsbD k ^^ (s.getV y).getLsbD k)) ∧
        RegsKeptExcept [x] s t ∧ ChangesOnly [.V] s t)

/-- R166: the sum modulo 256 to `V[X]`, then the carry to `VF`, which it overwrites when `X = 0xF`. -/
def Obligations.AddRegistersGivesSumThenCarry : Prop :=
  ∀ (x y : Nibble) (s : State),
    (encode (.op8XY4 x y)).toNat = 0x8004 + x.val * 0x100 + y.val * 0x10 ∧
    ∃ t, exec (.op8XY4 x y) s = .next t ∧
      (x ≠ 15 → (t.getV x).toNat = ((s.getV x).toNat + (s.getV y).toNat) % 256) ∧
      t.getV 15 = (if 255 < (s.getV x).toNat + (s.getV y).toNat then 1 else 0) ∧
      RegsKeptExcept [x, 15] s t ∧ ChangesOnly [.V] s t

/-- R167 and R169: the difference modulo 256 to `V[X]`, then 1 to `VF` exactly when there is no borrow, equality included;
`8XY7` with the operands exchanged. -/
def Obligations.SubtractGivesDifferenceThenNoBorrow : Prop :=
  ∀ (x y : Nibble) (s : State),
    ((encode (.op8XY5 x y)).toNat = 0x8005 + x.val * 0x100 + y.val * 0x10 ∧
      ∃ t, exec (.op8XY5 x y) s = .next t ∧
        (x ≠ 15 → (t.getV x).toNat = ((s.getV x).toNat + 256 - (s.getV y).toNat) % 256) ∧
        t.getV 15 = (if (s.getV y).toNat ≤ (s.getV x).toNat then 1 else 0) ∧
        RegsKeptExcept [x, 15] s t ∧ ChangesOnly [.V] s t) ∧
    ((encode (.op8XY7 x y)).toNat = 0x8007 + x.val * 0x100 + y.val * 0x10 ∧
      ∃ t, exec (.op8XY7 x y) s = .next t ∧
        (x ≠ 15 → (t.getV x).toNat = ((s.getV y).toNat + 256 - (s.getV x).toNat) % 256) ∧
        t.getV 15 = (if (s.getV x).toNat ≤ (s.getV y).toNat then 1 else 0) ∧
        RegsKeptExcept [x, 15] s t ∧ ChangesOnly [.V] s t)

/-- R168, R170, R173: shift by one, the bit shifted out to `VF`; with `X = 0xF` the flag is written first and then shifted, so
`8XY6` leaves 0 and `8XYE` leaves 2 or 0. `Y` has no effect (R99). The order is the spec's decision D8 (log 13). -/
def Obligations.ShiftsWriteFlagThenResult : Prop :=
  ∀ (x y : Nibble) (s : State),
    (∃ t, exec (.op8XY6 x y) s = .next t ∧
      (x ≠ 15 → (t.getV x).toNat = (s.getV x).toNat / 2 ∧ (t.getV 15).toNat = (s.getV x).toNat % 2) ∧
      (x = 15 → t.getV 15 = 0) ∧ RegsKeptExcept [x, 15] s t ∧ ChangesOnly [.V] s t) ∧
    (∃ t, exec (.op8XYE x y) s = .next t ∧
      (x ≠ 15 → (t.getV x).toNat = (s.getV x).toNat * 2 % 256 ∧ (t.getV 15).toNat = (s.getV x).toNat / 128) ∧
      (x = 15 → t.getV 15 = if 0x80 ≤ (s.getV 15).toNat then 2 else 0) ∧
      RegsKeptExcept [x, 15] s t ∧ ChangesOnly [.V] s t)

/-- R171: exactly one draw, also when `NN = 0`; `V[X]` is the byte drawn, masked. Holds whatever the opaque `RngNext` is (the
spec's decision D14; log 5). -/
def Obligations.RandomByteIsOneMaskedDraw : Prop :=
  ∀ (x : Nibble) (nn : Byte) (s : State),
    ∃ t, exec (.opCXNN x nn) s = .next t ∧
      (∀ k < 8, (t.getV x).getLsbD k = ((Config.rngNext s.rng).1.getLsbD k && nn.getLsbD k)) ∧
      t.rng = (Config.rngNext s.rng).2 ∧ RegsKeptExcept [x] s t ∧ ChangesOnly [.V, .rng] s t

/-! ## Control transfer -/

/-- R141: `pc <- NNN`; a target of `0xFFF` faults at the next fetch, not here; a jump to its own address changes no state. -/
def Obligations.JumpReplacesPc : Prop :=
  ∀ (nnn : BitVec 12) (s : State),
    (encode (.op1NNN nnn)).toNat = 0x1000 + nnn.toNat ∧
    ∃ t, exec (.op1NNN nnn) s = .next t ∧ t.pc.toNat = nnn.toNat ∧ ChangesOnly [.pc] s t ∧
      (nnn = 0xFFF → t.fetchFaults) ∧
      (s.beforeFetch.pc.toNat = nnn.toNat → t = s.beforeFetch)

/-- R142 and R253: below 16 entries the address after the call is pushed and `pc <- NNN`; with 16 nothing is pushed and the
fault is raised with `pc` back at `pc0`. -/
def Obligations.CallPushesReturnAddress : Prop :=
  ∀ (nnn : BitVec 12) (s : State),
    (encode (.op2NNN nnn)).toNat = 0x2000 + nnn.toNat ∧
    (s.SP.val < 16 → ∃ t, exec (.op2NNN nnn) s = .next t ∧ t.pc.toNat = nnn.toNat ∧ t.SP.val = s.SP.val + 1 ∧
      t.stack[s.SP.val]? = some s.pc ∧ (∀ k, k ≠ s.SP.val → t.stack[k]? = s.stack[k]?) ∧
      ChangesOnly [.pc, .SP, .stack] s t) ∧
    (s.SP.val = 16 → s.beforeFetch.FaultsWith .stackOverflow (exec (.op2NNN nnn) s))

/-- R140 and R254: the newest entry is popped into `pc` as it is and its slot keeps its contents; an empty stack faults with no
state change; with the live entries as the last call left them, a return goes to the instruction after that call. -/
def Obligations.ReturnPopsIntoPc : Prop :=
  ∀ s : State,
    encode .op00EE = 0x00EE ∧
    (s.SP.val ≠ 0 → ∃ t, exec .op00EE s = .next t ∧ t.SP.val = s.SP.val - 1 ∧ s.stack[s.SP.val - 1]? = some t.pc ∧
      ChangesOnly [.pc, .SP] s t ∧ (0xFFE < t.pc.toNat → t.fetchFaults) ∧
      (∀ u v nnn, u.SP.val < 16 → exec (.op2NNN nnn) u = .next v → s.SP = v.SP →
        (∀ k < v.SP.val, s.stack[k]? = v.stack[k]?) → t.pc = u.pc)) ∧
    (s.SP.val = 0 → s.beforeFetch.FaultsWith .stackUnderflow (exec .op00EE s))

/-- R143 to R146: `pc` moves 2 further exactly when the condition holds, and nothing else changes; `5XYN` and `9XYN` with
`N != 0` are unknown. -/
def Obligations.RegisterSkipsTestTheirCondition : Prop :=
  ∀ (x y : Nibble) (nn : Byte) (s : State),
    ((encode (.op3XNN x nn)).toNat = 0x3000 + x.val * 0x100 + nn.toNat ∧
      ∃ t, exec (.op3XNN x nn) s = .next t ∧ t.pc = (if s.getV x = nn then s.pc + 2 else s.pc) ∧
        ChangesOnly [.pc] s t) ∧
    ((encode (.op4XNN x nn)).toNat = 0x4000 + x.val * 0x100 + nn.toNat ∧
      ∃ t, exec (.op4XNN x nn) s = .next t ∧ t.pc = (if s.getV x = nn then s.pc else s.pc + 2) ∧
        ChangesOnly [.pc] s t) ∧
    ((encode (.op5XY0 x y)).toNat = 0x5000 + x.val * 0x100 + y.val * 0x10 ∧
      ∃ t, exec (.op5XY0 x y) s = .next t ∧ t.pc = (if s.getV x = s.getV y then s.pc + 2 else s.pc) ∧
        ChangesOnly [.pc] s t ∧
        ∀ w : Word, w.toNat / 0x1000 = 5 → w.toNat % 0x10 ≠ 0 → decodeWord w = .error (.unknownOpcode w)) ∧
    ((encode (.op9XY0 x y)).toNat = 0x9000 + x.val * 0x100 + y.val * 0x10 ∧
      ∃ t, exec (.op9XY0 x y) s = .next t ∧ t.pc = (if s.getV x = s.getV y then s.pc else s.pc + 2) ∧
        ChangesOnly [.pc] s t ∧
        ∀ w : Word, w.toNat / 0x1000 = 9 → w.toNat % 0x10 ≠ 0 → decodeWord w = .error (.unknownOpcode w))

/-- R147: `pc <- NNN + V[0]`, exact, at most `0x10FE`; above `0xFFE` the next fetch faults. The unreduced sum is the spec's
decision D3 (log 19). -/
def Obligations.IndexedJumpDoesNotReduceItsSum : Prop :=
  ∀ (nnn : BitVec 12) (s : State),
    ∃ t, exec (.opBNNN nnn) s = .next t ∧ t.pc.toNat = nnn.toNat + (s.getV 0).toNat ∧ t.pc.toNat ≤ 0x10FE ∧
      ChangesOnly [.pc] s t ∧ (0xFFE < t.pc.toNat → t.fetchFaults)

/-- S4 and R140: whatever balanced run stands between a successful call and a return, timer ticks, key updates and loads
included, the return brings `pc` back to the instruction after the call and `SP` to its value before it. -/
def Obligations.CallAndBalancedReturnComeBack : Prop :=
  ∀ (s t u : State) (nnn : BitVec 12), s.runs (.op2NNN nnn) → s.SP.val < 16 → s.instrTick = .next t →
    BalancedRun t u → u.runs .op00EE → ∃ v, u.instrTick = .next v ∧ v.pc = s.pc + 2 ∧ v.SP = s.SP

/-! ## Address register and memory transfer -/

/-- R190: `I <- NNN`. -/
def Obligations.LoadAddressRegister : Prop :=
  ∀ (nnn : BitVec 12) (s : State),
    (encode (.opANNN nnn)).toNat = 0xA000 + nnn.toNat ∧
    ∃ t, exec (.opANNN nnn) s = .next t ∧ t.I.toNat = nnn.toNat ∧ ChangesOnly [.I] s t

/-- R191: `I <- (I + V[X]) mod 65536`, no flag, no fault under either policy (the modulus is the spec's decision D9; log 17). -/
def Obligations.AddToAddressRegisterWrapsAtSixteenBits : Prop :=
  ∀ (x : Nibble) (s : State),
    ∃ t, exec (.opFX1E x) s = .next t ∧ t.I.toNat = (s.I.toNat + (s.getV x).toNat) % 65536 ∧ ChangesOnly [.I] s t

/-- R192: `I` points at the glyph of the low nibble of `V[X]`, at most `0x4B`. -/
def Obligations.PointAtFontGlyph : Prop :=
  ∀ (x : Nibble) (s : State),
    (encode (.opFX29 x)).toNat = 0xF029 + x.val * 0x100 ∧
    ∃ t, exec (.opFX29 x) s = .next t ∧ t.I.toNat = (s.getV x).toNat % 16 * 5 ∧ t.I.toNat ≤ 0x4B ∧
      ChangesOnly [.I] s t

/-- R193: the three decimal digits to `I`, `I + 1`, `I + 2`, each through `EA` on its own; under `fatal` past memory a fault with
nothing written. -/
def Obligations.StoreDecimalDigits : Prop :=
  ∀ (x : Nibble) (s : State),
    (encode (.opFX33 x)).toNat = 0xF033 + x.val * 0x100 ∧
    (s.dataInRange 3 → ∃ t, exec (.opFX33 x) s = .next t ∧
      (t.readByte (ea (s.dataAddr 0))).toNat = (s.getV x).toNat / 100 ∧
      (t.readByte (ea (s.dataAddr 1))).toNat = (s.getV x).toNat / 10 % 10 ∧
      (t.readByte (ea (s.dataAddr 2))).toNat = (s.getV x).toNat % 10 ∧
      MemKeptExcept [ea (s.dataAddr 0), ea (s.dataAddr 1), ea (s.dataAddr 2)] s t ∧ ChangesOnly [.mem] s t) ∧
    (s.config.boundsPolicy = .fatal → 0xFFF < s.I.toNat + 2 →
      s.beforeFetch.FaultsWith .memoryOutOfBounds (exec (.opFX33 x) s))

/-- R194: `V[0]` to `V[X]`, both ends inclusive, to `I` and on; `I` and all registers unchanged; under `fatal` past memory a fault
with nothing written. -/
def Obligations.StoreRegistersInclusive : Prop :=
  ∀ (x : Nibble) (s : State),
    (encode (.opFX55 x)).toNat = 0xF055 + x.val * 0x100 ∧
    (s.dataInRange (x.val + 1) → ∃ t, exec (.opFX55 x) s = .next t ∧
      (∀ k : Nibble, k ≤ x → t.readByte (ea (s.dataAddr k.val)) = s.getV k) ∧
      MemKeptExcept ((regsUpTo x).map (fun k => ea (s.dataAddr k.val))) s t ∧ ChangesOnly [.mem] s t) ∧
    (s.config.boundsPolicy = .fatal → 0xFFF < s.I.toNat + x.val →
      s.beforeFetch.FaultsWith .memoryOutOfBounds (exec (.opFX55 x) s))

/-- R195: `V[0]` to `V[X]` from `I` and on; registers above `X`, `I` and memory unchanged; under `fatal` past memory a fault with no
register changed. -/
def Obligations.LoadRegistersInclusive : Prop :=
  ∀ (x : Nibble) (s : State),
    (encode (.opFX65 x)).toNat = 0xF065 + x.val * 0x100 ∧
    (s.dataInRange (x.val + 1) → ∃ t, exec (.opFX65 x) s = .next t ∧
      (∀ k : Nibble, k ≤ x → t.getV k = s.readByte (ea (s.dataAddr k.val))) ∧
      (∀ k : Nibble, x < k → t.getV k = s.getV k) ∧ ChangesOnly [.V] s t) ∧
    (s.config.boundsPolicy = .fatal → 0xFFF < s.I.toNat + x.val →
      s.beforeFetch.FaultsWith .memoryOutOfBounds (exec (.opFX65 x) s))

/-- The byte a data address `a` names is `a mod 4096`, byte by byte: `FX33`, `FX55` and `FX65` at `(I + k) mod 4096`, row `r` of
`DXYN` from `(I + r) mod 4096`, and under `wrap` for every `I` up to `0xFFFF` (R68, R189: the spec's decision D1, log 32). Under
`fatal` the addresses are in memory, where the modulus changes nothing (R69, log 7). -/
def Obligations.DataAddressesAreTakenModuloMemorySize : Prop :=
  ∀ (x y n : Nibble) (s : State),
    (s.dataInRange 3 → ∃ t, exec (.opFX33 x) s = .next t ∧
      (t.readByte (s.I.toNat % 4096)).toNat = (s.getV x).toNat / 100 ∧
      (t.readByte ((s.I.toNat + 1) % 4096)).toNat = (s.getV x).toNat / 10 % 10 ∧
      (t.readByte ((s.I.toNat + 2) % 4096)).toNat = (s.getV x).toNat % 10 ∧
      ∀ a, (∀ k < 3, a ≠ (s.I.toNat + k) % 4096) → t.readByte a = s.readByte a) ∧
    (s.dataInRange (x.val + 1) → ∃ t u, exec (.opFX55 x) s = .next t ∧ exec (.opFX65 x) s = .next u ∧
      (∀ k : Nibble, k ≤ x → t.readByte ((s.I.toNat + k.val) % 4096) = s.getV k) ∧
      (∀ a, (∀ k ≤ x.val, a ≠ (s.I.toNat + k) % 4096) → t.readByte a = s.readByte a) ∧
      (∀ k : Nibble, k ≤ x → u.getV k = s.readByte ((s.I.toNat + k.val) % 4096))) ∧
    (s.dataInRange n.val → ∃ t, exec (.opDXYN x y n) s = .next t ∧
      ∀ (r c : Nat) (px : Fin 64) (py : Fin 32), r < n.val → c < 8 →
        px.val = ((s.getV x).toNat + c) % 64 → py.val = ((s.getV y).toNat + r) % 32 →
        t.fb.pixel px py = (s.fb.pixel px py ^^ (s.readByte ((s.I.toNat + r) % 4096)).getLsbD (7 - c)))

/-- R75: a store is seen by the very next fetch. The two lowest registers stored at an address inside memory are fetched there as
one word, the first one its high byte (R65). -/
def Obligations.StoreIsSeenByTheNextFetch : Prop :=
  ∀ (x : Nibble) (s t : State), 1 ≤ x → s.dataInRange (x.val + 1) → s.I.toNat ≤ 0xFFE → exec (.opFX55 x) s = .next t →
    State.fetchWord { t with pc := s.I } = s.getV 0 ++ s.getV 1

/-! ## Display -/

/-- R210: all 2048 pixels off; `VF` is not written. -/
def Obligations.ClearTurnsEveryPixelOff : Prop :=
  ∀ s : State,
    encode .op00E0 = 0x00E0 ∧
    ∃ t, exec .op00E0 s = .next t ∧ (∀ px py, t.fb.pixel px py = false) ∧ ChangesOnly [.fb] s t

/-- R211, pixel by pixel: a pixel is inverted exactly when a 1 bit of the sprite falls on it, `VF` is 1 exactly when some pixel
went from on to off; `I`, memory and the other registers unchanged; under `fatal` past memory a fault with nothing drawn. The
geometry is the spec's decision D11 (log 16). -/
def Obligations.DrawInvertsExactlyTheCoveredPixels : Prop :=
  ∀ (x y n : Nibble) (s : State),
    (s.dataInRange n.val → ∃ t, exec (.opDXYN x y n) s = .next t ∧
      (∀ px py, s.spriteCovers (s.getV x).toNat (s.getV y).toNat n.val px py → t.fb.pixel px py = !s.fb.pixel px py) ∧
      (∀ px py, ¬s.spriteCovers (s.getV x).toNat (s.getV y).toNat n.val px py → t.fb.pixel px py = s.fb.pixel px py) ∧
      t.getV 15 = (if ∃ px py, s.fb.pixel px py = true ∧ t.fb.pixel px py = false then 1 else 0) ∧
      RegsKeptExcept [15] s t ∧ ChangesOnly [.fb, .V] s t) ∧
    (s.config.boundsPolicy = .fatal → n ≠ 0 → 0xFFF < s.I.toNat + n.val - 1 →
      s.beforeFetch.FaultsWith .memoryOutOfBounds (exec (.opDXYN x y n) s))

/-- S5: "drawing the same sprite twice at the same coordinates clears every previously-set pixel and reports V[15]=1" when the first
draw met no lit pixel and the sprite has a 1 bit; the framebuffer is back as it was in any case. `X` and `Y` other than `0xF`,
whose register the first draw overwrites. -/
def Obligations.DrawingTwiceRestoresTheScreen : Prop :=
  ∀ (x y n : Nibble) (s : State), x ≠ 15 → y ≠ 15 → s.dataInRange n.val →
    ∃ t u, exec (.opDXYN x y n) s = .next t ∧ exec (.opDXYN x y n) t = .next u ∧ u.fb = s.fb ∧
      (t.getV 15 = 0 → (∃ px py, s.spriteCovers (s.getV x).toNat (s.getV y).toNat n.val px py) → u.getV 15 = 1)

/-! ## Keypad and timers -/

/-- R230, R231: the key tested is the low nibble of `V[X]` (R236, the spec's decision D12; log 14); `EX9E` skips when it is down,
`EXA1` when it is up. -/
def Obligations.KeySkipsTestTheLowNibbleKey : Prop :=
  ∀ (x k : Nibble) (s : State), (s.getV x).toNat % 16 = k.val →
    (∃ t, exec (.opEX9E x) s = .next t ∧ t.pc = (if s.key[k] = true then s.pc + 2 else s.pc) ∧ ChangesOnly [.pc] s t) ∧
    (∃ t, exec (.opEXA1 x) s = .next t ∧ t.pc = (if s.key[k] = true then s.pc else s.pc + 2) ∧ ChangesOnly [.pc] s t)

/-- R232: `V[X] <- DT`; and "There is no instruction that reads `ST`": with another value in `ST` every instruction does
the same. -/
def Obligations.DelayTimerIsReadAndSoundTimerIsNot : Prop :=
  (∀ (x : Nibble) (s : State),
    (encode (.opFX07 x)).toNat = 0xF007 + x.val * 0x100 ∧
    ∃ t, exec (.opFX07 x) s = .next t ∧ t.getV x = s.DT ∧ RegsKeptExcept [x] s t ∧ ChangesOnly [.V] s t) ∧
  (∀ (i : Instr) (s t : State) (v : Byte), (∀ y, i ≠ .opFX18 y) → exec i s = .next t →
    exec i { s with ST := v } = .next { t with ST := v }) ∧
  (∀ (y : Nibble) (s : State) (v : Byte), exec (.opFX18 y) { s with ST := v } = exec (.opFX18 y) s)

/-- R234, R235: `DT <- V[X]`, counted down from the next `TimerTick` on; `ST <- V[X]`, the tone active from this instruction until
`ST` has counted down to 0. -/
def Obligations.TimerWritesTakeEffectAtOnce : Prop :=
  ∀ (x : Nibble) (s : State),
    ((encode (.opFX15 x)).toNat = 0xF015 + x.val * 0x100 ∧
      ∃ t, exec (.opFX15 x) s = .next t ∧ t.DT = s.getV x ∧ t.timerTick.DT.toNat = (s.getV x).toNat - 1 ∧
        ChangesOnly [.DT] s t) ∧
    ((encode (.opFX18 x)).toNat = 0xF018 + x.val * 0x100 ∧
      ∃ t, exec (.opFX18 x) s = .next t ∧ t.ST = s.getV x ∧ ChangesOnly [.ST] s t ∧
        ∀ n, (State.timerTick^[n] t).toneActive = true ↔ n < (s.getV x).toNat)

/-- R233: `FX0A` suspends the instruction clock only: `run_state <- WaitKey(X)`, `pc` past the instruction, `V[X]` not written;
then an `InstrTick` changes nothing and a `TimerTick` acts as usual. The mechanism is the spec's decision D13 (log 15). -/
def Obligations.KeyWaitSuspendsTheInstructionClockOnly : Prop :=
  ∀ (x : Nibble) (s : State),
    ∃ t, exec (.opFX0A x) s = .next t ∧ t.runState = .waitKey x ∧ ChangesOnly [.runState] s t ∧
      t.applyEvent .instrTick = .next t ∧
      ∃ u, t.applyEvent .timerTick = .next u ∧ u.DT.toNat = s.DT.toNat - 1 ∧ u.ST.toNat = s.ST.toNat - 1 ∧
        u.runState = .waitKey x

/-- R233 and R263: a `KeyUpdate` that takes some key from up to down ends a wait: the lowest such key to `V[x]`, `Running`, the new
vector in force. The tie-break is the spec's decision D13 (log 15). -/
def Obligations.NewlyDownKeyEndsTheWait : Prop :=
  ∀ (s : State) (x k : Nibble) (keys : Keys), s.runState = .waitKey x → s.key[k] = false → keys[k] = true →
    (∀ j : Nibble, j < k → ¬(s.key[j] = false ∧ keys[j] = true)) →
    ∃ t, s.applyEvent (.keyUpdate keys) = .next t ∧ (t.getV x).toNat = k.val ∧ t.runState = .running ∧ t.key = keys ∧
      RegsKeptExcept [x] s t ∧ ChangesOnly [.key, .V, .runState] s t

/-- R263: outside a wait, or when no key goes down, a `KeyUpdate` only replaces `KeyState`, whether or not the machine is paused (the
spec's decision D13; log 15). -/
def Obligations.KeyUpdateOtherwiseOnlyReplacesTheKeys : Prop :=
  ∀ (s : State) (keys : Keys),
    ((∀ x, s.runState ≠ .waitKey x) ∨ (∀ k : Nibble, s.key[k] = true ∨ keys[k] = false)) →
    s.applyEvent (.keyUpdate keys) = .next { s with key := keys }

/-! ## The other events -/

/-- R266: both timers counted down, 0 stays 0, nothing else changes; in every run state and whether or not paused, which is R267
and the spec's decision D16 (log 22). -/
def Obligations.TimerTickCountsBothTimersDown : Prop :=
  ∀ s : State, ∃ t, s.applyEvent .timerTick = .next t ∧ t.DT.toNat = s.DT.toNat - 1 ∧ t.ST.toNat = s.ST.toNat - 1 ∧
    ChangesOnly [.DT, .ST] s t

/-- Vectors E1 to E3: after `n` timer ticks each timer has lost `n`, never going below 0, and the tone is active exactly while `ST`
has ticks left (R266, R268). -/
def Obligations.TimersReachZeroAfterTheirCount : Prop :=
  ∀ (n : Nat) (s : State), (State.timerTick^[n] s).DT.toNat = s.DT.toNat - n ∧
    (State.timerTick^[n] s).ST.toNat = s.ST.toNat - n ∧
    ((State.timerTick^[n] s).toneActive = true ↔ n < s.ST.toNat)

/-- R264: `Pause` and `Resume` set and clear `paused` and change nothing else, and are idempotent; while paused an `InstrTick`
changes nothing. They are the spec's decision D15 (log 21). -/
def Obligations.PauseAndResumeTouchOneBit : Prop :=
  ∀ s : State, ∃ t u, s.applyEvent .pause = .next t ∧ t.paused = true ∧ ChangesOnly [.paused] s t ∧
    t.applyEvent .pause = .next t ∧ t.applyEvent .instrTick = .next t ∧
    s.applyEvent .resume = .next u ∧ u.paused = false ∧ ChangesOnly [.paused] s u ∧ u.applyEvent .resume = .next u

/-- R300 and R36, vector E20: the value of every element after `Reset`, from any state; the configuration stays (R35). The values of
`key`, the slots, `run_state`, `paused` and `rng_state` are the spec's decision D17. -/
def Obligations.ResetGivesEveryElementItsValue : Prop :=
  ∀ s : State, ∃ t, s.applyEvent .reset = .next t ∧
    (∀ a, t.readByte a = if h : a < 80 then s.config.fontData[a] else 0) ∧ (∀ r, t.getV r = 0) ∧ t.pc = 0 ∧ t.I = 0 ∧
    t.SP = 0 ∧ (∀ k : Fin 16, t.stack[k] = 0) ∧ t.DT = 0 ∧ t.ST = 0 ∧ (∀ px py, t.fb.pixel px py = false) ∧
    (∀ k : Nibble, t.key[k] = false) ∧ t.runState = .awaitingRom ∧ t.paused = false ∧
    t.rng = Config.rngInit s.config.seed ∧ t.config = s.config ∧ t.pending = s.pending

/-- R301, R303: an image of at most `4096 - ENTRY_POINT` bytes is copied at the entry point, the rest of `0x200`-`0xFFF` is zero,
`pc` is the entry point, the machine runs, `ok` is returned, and nothing else changes; a longer one is rejected. The extent and
the run state are the spec's decision D18 (log 23). -/
def Obligations.LoadAcceptsExactlyWhatFits : Prop :=
  ∀ (s : State) (image : List Byte),
    (image.length ≤ 4096 - s.config.entryPoint.addr →
      ∃ t, s.applyEvent (.loadRom image) = .next t ∧ s.reply (.loadRom image) = .load .ok ∧
        (∀ a, a < 0x200 → t.readByte a = s.readByte a) ∧
        (∀ a, 0x200 ≤ a → a < s.config.entryPoint.addr → t.readByte a = 0) ∧
        (∀ a, s.config.entryPoint.addr ≤ a → a ≤ 0xFFF →
          t.readByte a = (image[a - s.config.entryPoint.addr]?).getD 0) ∧
        t.pc.toNat = s.config.entryPoint.addr ∧ t.runState = .running ∧ ChangesOnly [.mem, .pc, .runState] s t) ∧
    (4096 - s.config.entryPoint.addr < image.length →
      s.applyEvent (.loadRom image) = .next s ∧ s.reply (.loadRom image) = .load .romTooLarge) ∧
    4096 - EntryPoint.standard.addr = 3584 ∧ 4096 - EntryPoint.eti660.addr = 2560

/-- R302, R256: at the standard entry point an image of more than 3584 bytes is answered by `RomTooLarge` and leaves the whole state
untouched, `run_state` included. -/
def Obligations.OversizedLoadLeavesTheStateUntouched : Prop :=
  ∀ (s : State) (image : List Byte), s.config.entryPoint = .standard → 3584 < image.length →
    s.applyEvent (.loadRom image) = .next s ∧ s.reply (.loadRom image) = .load .romTooLarge

/-- R304: the launch state, `Reset` followed by a successful `LoadRom` with no event between, from any state and under any
configuration: every element of it. -/
def Obligations.LaunchStateIsAsStated : Prop :=
  ∀ (s r : State) (image : List Byte), image.length ≤ 4096 - s.config.entryPoint.addr → s.applyEvent .reset = .next r →
    ∃ t, r.applyEvent (.loadRom image) = .next t ∧
      (∀ a, (h : a < 80) → t.readByte a = s.config.fontData[a]) ∧ (∀ a, 80 ≤ a → a < 0x200 → t.readByte a = 0) ∧
      (∀ k, (h : k < image.length) → t.readByte (s.config.entryPoint.addr + k) = image[k]) ∧
      (∀ a, 0x200 ≤ a → a ≤ 0xFFF → ¬(s.config.entryPoint.addr ≤ a ∧ a < s.config.entryPoint.addr + image.length) →
        t.readByte a = 0) ∧
      t.pc.toNat = s.config.entryPoint.addr ∧ (∀ x, t.getV x = 0) ∧ t.I = 0 ∧ t.SP = 0 ∧
      (∀ k : Fin 16, t.stack[k] = 0) ∧ t.DT = 0 ∧ t.ST = 0 ∧ (∀ px py, t.fb.pixel px py = false) ∧
      (∀ k : Nibble, t.key[k] = false) ∧ t.paused = false ∧ t.runState = .running ∧ t.rng = Config.rngInit s.config.seed

/-- R275, R268: a `Snapshot` changes nothing and returns the whole state; its ports show pixel `(x, y)` at bit `y * 64 + x` and key
`k` at bit `k`, and the tone bit is `ST > 0`. The linearisation is the spec's decision D20 (log 27). -/
def Obligations.SnapshotShowsTheState : Prop :=
  ∀ s : State, s.applyEvent .snapshot = .next s ∧ s.reply .snapshot = .snapshot s ∧
    (∀ (px : Fin 64) (py : Fin 32), s.fbPort.getLsbD (py.val * 64 + px.val) = s.fb.pixel px py) ∧
    (∀ k : Nibble, s.keyPort.getLsbD k.val = s.key[k]) ∧ (s.toneActive = true ↔ 0 < s.ST.toNat)

/-! ## The whole machine -/

/-- In every state the answer of every instruction, and of every step, is a next state, never the host's outcome `fault` or
`refused`. An execution fault, which halts the instruction clock (R257), is itself such a next state, `run_state = Faulted(..)`:
that is the model's own form, DEDUCED (log 12), as is the reading of R265 ("Every instruction is legal at all times"). -/
def Obligations.EveryInstructionAndStepHasANextState : Prop :=
  (∀ (i : Instr) (s : State), ∃ t, exec i s = .next t) ∧ (∀ s : State, ∃ t, step s = .next t)

/-- R123, R37: an instruction that does not fault writes only the elements its rule names; no instruction writes the keys, the pause
bit, the configuration or the waiting events, and only `FX15` and `FX18` write a timer (S7). One that faults changes `pc` back
and `run_state`, nothing else. -/
def Obligations.InstructionsWriteOnlyTheirElements : Prop :=
  ∀ (i : Instr) (s t : State), exec i s = .next t →
    ChangesOnly (instrWrites i) s t ∨ ∃ kind info, t = s.beforeFetch.faultedAs kind (some (encode i)) info

/-- Each event writes at most the elements the table of R37 lists for it, and `Reset` also `V`, which R37's row `V` omits and R36
and R300 give (log 33); never the configuration or the waiting events. -/
def Obligations.EventsWriteOnlyTheirElements : Prop :=
  ∀ (e : Event) (s t : State), s.applyEvent e = .next t → ChangesOnly (eventWrites e) s t

/-- R125: which fault each instruction can raise and when; no other instruction raises one (the spec's decision D26). The
address recorded is the lowest offending one (R69, D27; log 8). -/
def Obligations.InstructionsRaiseOnlyTheirFault : Prop :=
  ∀ (i : Instr) (s t : State) (r : FaultRecord), s.unfaulted → exec i s = .next t → t.runState = .faulted r →
    (r.kind = .stackOverflow ∧ s.SP.val = 16 ∧ ∃ nnn, i = .op2NNN nnn) ∨
    (r.kind = .stackUnderflow ∧ s.SP.val = 0 ∧ i = .op00EE) ∨
    (r.kind = .memoryOutOfBounds ∧ s.config.boundsPolicy = .fatal ∧ r.info = some (max s.I.toNat 0x1000) ∧
      ((∃ x y n, i = .opDXYN x y n) ∨ (∃ x, i = .opFX33 x) ∨ (∃ x, i = .opFX55 x) ∨ (∃ x, i = .opFX65 x)))

/-- R124, R258: whatever fault a tick takes, every element but `run_state` keeps the value it had when the tick began, the record's
`pc` is the instruction's address, and its word is the one fetched, absent exactly for `PcOutOfBounds` (the spec's decision D5;
log 20). -/
def Obligations.FaultsArePrecise : Prop :=
  ∀ (s t : State) (r : FaultRecord), s.enabled = true → s.applyEvent .instrTick = .next t → t.runState = .faulted r →
    t = { s with runState := .faulted r } ∧ r.pc = s.pc ∧
      r.word = (if r.kind = .pcOutOfBounds then none else some s.fetchWord)

/-- R270: a `TimerTick` may come before or after any instruction that touches no timer, with the same result. -/
def Obligations.TimerTickCommutesWithOtherInstructions : Prop :=
  ∀ (i : Instr) (s t : State), (∀ x, i ≠ .opFX07 x ∧ i ≠ .opFX15 x ∧ i ≠ .opFX18 x) → exec i s = .next t →
    exec i s.timerTick = .next t.timerTick

/-- R270: a `KeyUpdate` may come before or after any instruction that touches no key, with the same result, while the machine
runs. -/
def Obligations.KeyUpdateCommutesWithOtherInstructions : Prop :=
  ∀ (i : Instr) (s t : State) (keys : Keys), (∀ x, i ≠ .opEX9E x ∧ i ≠ .opEXA1 x ∧ i ≠ .opFX0A x) →
    s.runState = .running → exec i s = .next t → exec i (s.keyUpdate keys) = .next (t.keyUpdate keys)

/-- R6, R271: `INSTR_HZ` is timing only; no step's result depends on it. -/
def Obligations.InstructionRateHasNoEffect : Prop :=
  ∀ (s t : State) (hz : Nat), step s = .next t →
    step { s with config := { s.config with instrHz := hz } } = .next { t with config := { t.config with instrHz := hz } }

/-- The invariant of Safety.lean is kept by every step from every state that has it: memory stays canonical, `pc` stays at most
`0x10FE` (R24), no stack slot exceeds `0x1000`, a fault record stays sound and precise (R34). -/
def Obligations.StepKeepsTheInvariant : Prop :=
  ∀ s t : State, s.Inv → step s = .next t → t.Inv

/-- The reset state has the invariant, under any configuration and with any events waiting. -/
def Obligations.ResetMeetsTheInvariant : Prop :=
  State.reset.Inv ∧ ∀ (cfg : Config) (es : List Event), (State.resetWith cfg es).Inv
end

