-- ==== Sys2Proof/Laws/Encode.lean ====
section
/-! SUPPORT. Laws/Encode.lean: the packed formats as numbers, and the fields a packed word is split into. -/

namespace Sys2Proof

/-- Appending bit strings is shifting the upper one over the lower. -/
theorem toNat_append_eq {n m : Nat} (a : BitVec n) (b : BitVec m) : (a ++ b).toNat = a.toNat * 2 ^ m + b.toNat := by
  rw [BitVec.toNat_append, Nat.shiftLeft_eq, ← Nat.shiftLeft_eq, ← Nat.shiftLeft_add_eq_or_of_lt b.isLt, Nat.shiftLeft_eq]

@[simp] theorem packNNN_toNat (op : BitVec 4) (nnn : BitVec 12) :
    (packNNN op nnn).toNat = op.toNat * 0x1000 + nnn.toNat := toNat_append_eq op nnn

@[simp] theorem packXNN_toNat (op : BitVec 4) (x : Nibble) (nn : Byte) :
    (packXNN op x nn).toNat = op.toNat * 0x1000 + x.val * 0x100 + nn.toNat := by
  have h : (BitVec.ofFin (w := 4) x).toNat = x.val := rfl
  rw [packXNN, toNat_append_eq, toNat_append_eq, h]; omega

@[simp] theorem packXYN_toNat (op : BitVec 4) (x y : Nibble) (n : BitVec 4) :
    (packXYN op x y n).toNat = op.toNat * 0x1000 + x.val * 0x100 + y.val * 0x10 + n.toNat := by
  have hx : (BitVec.ofFin (w := 4) x).toNat = x.val := rfl
  have hy : (BitVec.ofFin (w := 4) y).toNat = y.val := rfl
  rw [packXYN, toNat_append_eq, toNat_append_eq, toNat_append_eq, hx, hy]; omega

/-! ## The fields of a word as numbers (R91) -/

section
variable (w : Word)

@[simp] theorem ofWord_op_toNat : (Fields.ofWord w).op.toNat = w.toNat / 0x1000 := by
  simp only [Fields.ofWord, BitVec.extractLsb'_toNat, Nat.shiftRight_eq_div_pow]
  have := w.isLt
  omega

@[simp] theorem ofWord_x_toNat : (Fields.ofWord w).x.toNat = w.toNat / 0x100 % 0x10 := by
  simp [Fields.ofWord, Nat.shiftRight_eq_div_pow]

@[simp] theorem ofWord_y_toNat : (Fields.ofWord w).y.toNat = w.toNat / 0x10 % 0x10 := by
  simp [Fields.ofWord, Nat.shiftRight_eq_div_pow]

@[simp] theorem ofWord_n_toNat : (Fields.ofWord w).n.toNat = w.toNat % 0x10 := by simp [Fields.ofWord]

@[simp] theorem ofWord_nn_toNat : (Fields.ofWord w).nn.toNat = w.toNat % 0x100 := by simp [Fields.ofWord]

@[simp] theorem ofWord_nnn_toNat : (Fields.ofWord w).nnn.toNat = w.toNat % 0x1000 := by simp [Fields.ofWord]

@[simp] theorem ofWord_X_val : (Fields.ofWord w).X.val = w.toNat / 0x100 % 0x10 := ofWord_x_toNat w

@[simp] theorem ofWord_Y_val : (Fields.ofWord w).Y.val = w.toNat / 0x10 % 0x10 := ofWord_y_toNat w

@[simp] theorem ofWord_N_val : (Fields.ofWord w).N.val = w.toNat % 0x10 := ofWord_n_toNat w

/-- Two bytes joined as a number: the high byte is the one at the lower address (R65). -/
@[simp] theorem wordOfBytes_toNat (hi lo : Byte) : (wordOfBytes hi lo).toNat = hi.toNat * 0x100 + lo.toNat :=
  toNat_append_eq hi lo

@[simp] theorem highByte_toNat : (highByte w).toNat = w.toNat / 0x100 := by
  simp only [highByte, BitVec.extractLsb'_toNat, Nat.shiftRight_eq_div_pow]
  have := w.isLt
  omega

@[simp] theorem lowByte_toNat : (lowByte w).toNat = w.toNat % 0x100 := by simp [lowByte]

/-- A word is the join of its two bytes. -/
@[simp] theorem wordOfBytes_high_low : wordOfBytes (highByte w) (lowByte w) = w := by
  apply BitVec.eq_of_toNat_eq
  simp only [wordOfBytes_toNat, highByte_toNat, lowByte_toNat]
  omega

end

/-! ## The fields of a packed word, and a word from its fields (R91, R93) -/

/-- Field records with equal numbers are equal. -/
theorem fields_ext {a b : Fields} (hop : a.op.toNat = b.op.toNat) (hx : a.x.toNat = b.x.toNat)
    (hy : a.y.toNat = b.y.toNat) (hn : a.n.toNat = b.n.toNat) (hnn : a.nn.toNat = b.nn.toNat)
    (hnnn : a.nnn.toNat = b.nnn.toNat) : a = b := by
  cases a; cases b
  simp only [Fields.mk.injEq, ← BitVec.toNat_inj]
  exact ⟨hop, hx, hy, hn, hnn, hnnn⟩

theorem ofWord_packNNN (op : BitVec 4) (nnn : BitVec 12) : Fields.ofWord (packNNN op nnn) =
    ⟨op, nnn.extractLsb' 8 4, nnn.extractLsb' 4 4, nnn.extractLsb' 0 4, nnn.extractLsb' 0 8, nnn⟩ := by
  have := nnn.isLt
  apply fields_ext
  all_goals
    simp only [ofWord_op_toNat, ofWord_x_toNat, ofWord_y_toNat, ofWord_n_toNat, ofWord_nn_toNat, ofWord_nnn_toNat,
      packNNN_toNat, BitVec.extractLsb'_toNat, Nat.shiftRight_eq_div_pow]
    omega

theorem ofWord_packXNN (op : BitVec 4) (x : Nibble) (nn : Byte) : Fields.ofWord (packXNN op x nn) =
    ⟨op, BitVec.ofFin (w := 4) x, nn.extractLsb' 4 4, nn.extractLsb' 0 4, nn, BitVec.ofFin (w := 4) x ++ nn⟩ := by
  have hx : (BitVec.ofFin (w := 4) x).toNat = x.val := rfl
  have := nn.isLt
  have := x.isLt
  apply fields_ext
  all_goals
    simp only [ofWord_op_toNat, ofWord_x_toNat, ofWord_y_toNat, ofWord_n_toNat, ofWord_nn_toNat, ofWord_nnn_toNat,
      packXNN_toNat, toNat_append_eq, hx, BitVec.extractLsb'_toNat, Nat.shiftRight_eq_div_pow]
    omega

theorem ofWord_packXYN (op : BitVec 4) (x y : Nibble) (n : BitVec 4) : Fields.ofWord (packXYN op x y n) =
    ⟨op, BitVec.ofFin (w := 4) x, BitVec.ofFin (w := 4) y, n, BitVec.ofFin (w := 4) y ++ n,
      BitVec.ofFin (w := 4) x ++ (BitVec.ofFin (w := 4) y ++ n)⟩ := by
  have hx : (BitVec.ofFin (w := 4) x).toNat = x.val := rfl
  have hy : (BitVec.ofFin (w := 4) y).toNat = y.val := rfl
  have := n.isLt
  have := x.isLt
  have := y.isLt
  apply fields_ext
  all_goals
    simp only [ofWord_op_toNat, ofWord_x_toNat, ofWord_y_toNat, ofWord_n_toNat, ofWord_nn_toNat, ofWord_nnn_toNat,
      packXYN_toNat, toNat_append_eq, hx, hy]
    omega

/-- A word is the format `NNN` of its fields. -/
theorem packNNN_ofWord (w : Word) : packNNN (Fields.ofWord w).op (Fields.ofWord w).nnn = w := by
  apply BitVec.eq_of_toNat_eq
  simp only [packNNN_toNat, ofWord_op_toNat, ofWord_nnn_toNat]
  omega

/-- A word is the format `XNN` of its fields. -/
theorem packXNN_ofWord (w : Word) : packXNN (Fields.ofWord w).op (Fields.ofWord w).X (Fields.ofWord w).nn = w := by
  apply BitVec.eq_of_toNat_eq
  simp only [packXNN_toNat, ofWord_op_toNat, ofWord_X_val, ofWord_nn_toNat]
  omega

/-- A word is the format `XYN` of its fields. -/
theorem packXYN_ofWord (w : Word) :
    packXYN (Fields.ofWord w).op (Fields.ofWord w).X (Fields.ofWord w).Y (Fields.ofWord w).n = w := by
  apply BitVec.eq_of_toNat_eq
  simp only [packXYN_toNat, ofWord_op_toNat, ofWord_X_val, ofWord_Y_val, ofWord_n_toNat]
  omega

end Sys2Proof
end

