-- ==== Sys2Proof/Laws/State.lean ====
section
/-! SUPPORT. Laws/State.lean: one lemma per field per update, true by rfl, so that no later proof unfolds a record update. -/

namespace Sys2Proof.Machine.State

variable (s : State)

/-! ### setV -/
@[simp] theorem setV_mem (x : Nibble) (b : Byte) : (s.setV x b).mem = s.mem := rfl
@[simp] theorem setV_V (x : Nibble) (b : Byte) : (s.setV x b).V = s.V.set x b := rfl
@[simp] theorem setV_pc (x : Nibble) (b : Byte) : (s.setV x b).pc = s.pc := rfl
@[simp] theorem setV_I (x : Nibble) (b : Byte) : (s.setV x b).I = s.I := rfl
@[simp] theorem setV_stack (x : Nibble) (b : Byte) : (s.setV x b).stack = s.stack := rfl
@[simp] theorem setV_SP (x : Nibble) (b : Byte) : (s.setV x b).SP = s.SP := rfl
@[simp] theorem setV_DT (x : Nibble) (b : Byte) : (s.setV x b).DT = s.DT := rfl
@[simp] theorem setV_ST (x : Nibble) (b : Byte) : (s.setV x b).ST = s.ST := rfl
@[simp] theorem setV_fb (x : Nibble) (b : Byte) : (s.setV x b).fb = s.fb := rfl
@[simp] theorem setV_key (x : Nibble) (b : Byte) : (s.setV x b).key = s.key := rfl
@[simp] theorem setV_runState (x : Nibble) (b : Byte) : (s.setV x b).runState = s.runState := rfl
@[simp] theorem setV_paused (x : Nibble) (b : Byte) : (s.setV x b).paused = s.paused := rfl
@[simp] theorem setV_rng (x : Nibble) (b : Byte) : (s.setV x b).rng = s.rng := rfl
@[simp] theorem setV_config (x : Nibble) (b : Byte) : (s.setV x b).config = s.config := rfl
@[simp] theorem setV_pending (x : Nibble) (b : Byte) : (s.setV x b).pending = s.pending := rfl

/-! ### setVF -/
@[simp] theorem setVF_mem (b : Byte) : (s.setVF b).mem = s.mem := rfl
@[simp] theorem setVF_V (b : Byte) : (s.setVF b).V = s.V.set 15 b := rfl
@[simp] theorem setVF_pc (b : Byte) : (s.setVF b).pc = s.pc := rfl
@[simp] theorem setVF_I (b : Byte) : (s.setVF b).I = s.I := rfl
@[simp] theorem setVF_stack (b : Byte) : (s.setVF b).stack = s.stack := rfl
@[simp] theorem setVF_SP (b : Byte) : (s.setVF b).SP = s.SP := rfl
@[simp] theorem setVF_DT (b : Byte) : (s.setVF b).DT = s.DT := rfl
@[simp] theorem setVF_ST (b : Byte) : (s.setVF b).ST = s.ST := rfl
@[simp] theorem setVF_fb (b : Byte) : (s.setVF b).fb = s.fb := rfl
@[simp] theorem setVF_key (b : Byte) : (s.setVF b).key = s.key := rfl
@[simp] theorem setVF_runState (b : Byte) : (s.setVF b).runState = s.runState := rfl
@[simp] theorem setVF_paused (b : Byte) : (s.setVF b).paused = s.paused := rfl
@[simp] theorem setVF_rng (b : Byte) : (s.setVF b).rng = s.rng := rfl
@[simp] theorem setVF_config (b : Byte) : (s.setVF b).config = s.config := rfl
@[simp] theorem setVF_pending (b : Byte) : (s.setVF b).pending = s.pending := rfl

/-! ### setPc -/
@[simp] theorem setPc_mem (t : Word) : (s.setPc t).mem = s.mem := rfl
@[simp] theorem setPc_V (t : Word) : (s.setPc t).V = s.V := rfl
@[simp] theorem setPc_pc (t : Word) : (s.setPc t).pc = t := rfl
@[simp] theorem setPc_I (t : Word) : (s.setPc t).I = s.I := rfl
@[simp] theorem setPc_stack (t : Word) : (s.setPc t).stack = s.stack := rfl
@[simp] theorem setPc_SP (t : Word) : (s.setPc t).SP = s.SP := rfl
@[simp] theorem setPc_DT (t : Word) : (s.setPc t).DT = s.DT := rfl
@[simp] theorem setPc_ST (t : Word) : (s.setPc t).ST = s.ST := rfl
@[simp] theorem setPc_fb (t : Word) : (s.setPc t).fb = s.fb := rfl
@[simp] theorem setPc_key (t : Word) : (s.setPc t).key = s.key := rfl
@[simp] theorem setPc_runState (t : Word) : (s.setPc t).runState = s.runState := rfl
@[simp] theorem setPc_paused (t : Word) : (s.setPc t).paused = s.paused := rfl
@[simp] theorem setPc_rng (t : Word) : (s.setPc t).rng = s.rng := rfl
@[simp] theorem setPc_config (t : Word) : (s.setPc t).config = s.config := rfl
@[simp] theorem setPc_pending (t : Word) : (s.setPc t).pending = s.pending := rfl

/-! ### advancePc -/
@[simp] theorem advancePc_mem : (s.advancePc).mem = s.mem := rfl
@[simp] theorem advancePc_V : (s.advancePc).V = s.V := rfl
@[simp] theorem advancePc_pc : (s.advancePc).pc = s.pc + 2 := rfl
@[simp] theorem advancePc_I : (s.advancePc).I = s.I := rfl
@[simp] theorem advancePc_stack : (s.advancePc).stack = s.stack := rfl
@[simp] theorem advancePc_SP : (s.advancePc).SP = s.SP := rfl
@[simp] theorem advancePc_DT : (s.advancePc).DT = s.DT := rfl
@[simp] theorem advancePc_ST : (s.advancePc).ST = s.ST := rfl
@[simp] theorem advancePc_fb : (s.advancePc).fb = s.fb := rfl
@[simp] theorem advancePc_key : (s.advancePc).key = s.key := rfl
@[simp] theorem advancePc_runState : (s.advancePc).runState = s.runState := rfl
@[simp] theorem advancePc_paused : (s.advancePc).paused = s.paused := rfl
@[simp] theorem advancePc_rng : (s.advancePc).rng = s.rng := rfl
@[simp] theorem advancePc_config : (s.advancePc).config = s.config := rfl
@[simp] theorem advancePc_pending : (s.advancePc).pending = s.pending := rfl

/-! ### setI -/
@[simp] theorem setI_mem (v : Word) : (s.setI v).mem = s.mem := rfl
@[simp] theorem setI_V (v : Word) : (s.setI v).V = s.V := rfl
@[simp] theorem setI_pc (v : Word) : (s.setI v).pc = s.pc := rfl
@[simp] theorem setI_I (v : Word) : (s.setI v).I = v := rfl
@[simp] theorem setI_stack (v : Word) : (s.setI v).stack = s.stack := rfl
@[simp] theorem setI_SP (v : Word) : (s.setI v).SP = s.SP := rfl
@[simp] theorem setI_DT (v : Word) : (s.setI v).DT = s.DT := rfl
@[simp] theorem setI_ST (v : Word) : (s.setI v).ST = s.ST := rfl
@[simp] theorem setI_fb (v : Word) : (s.setI v).fb = s.fb := rfl
@[simp] theorem setI_key (v : Word) : (s.setI v).key = s.key := rfl
@[simp] theorem setI_runState (v : Word) : (s.setI v).runState = s.runState := rfl
@[simp] theorem setI_paused (v : Word) : (s.setI v).paused = s.paused := rfl
@[simp] theorem setI_rng (v : Word) : (s.setI v).rng = s.rng := rfl
@[simp] theorem setI_config (v : Word) : (s.setI v).config = s.config := rfl
@[simp] theorem setI_pending (v : Word) : (s.setI v).pending = s.pending := rfl

/-! ### setDT -/
@[simp] theorem setDT_mem (v : Byte) : (s.setDT v).mem = s.mem := rfl
@[simp] theorem setDT_V (v : Byte) : (s.setDT v).V = s.V := rfl
@[simp] theorem setDT_pc (v : Byte) : (s.setDT v).pc = s.pc := rfl
@[simp] theorem setDT_I (v : Byte) : (s.setDT v).I = s.I := rfl
@[simp] theorem setDT_stack (v : Byte) : (s.setDT v).stack = s.stack := rfl
@[simp] theorem setDT_SP (v : Byte) : (s.setDT v).SP = s.SP := rfl
@[simp] theorem setDT_DT (v : Byte) : (s.setDT v).DT = v := rfl
@[simp] theorem setDT_ST (v : Byte) : (s.setDT v).ST = s.ST := rfl
@[simp] theorem setDT_fb (v : Byte) : (s.setDT v).fb = s.fb := rfl
@[simp] theorem setDT_key (v : Byte) : (s.setDT v).key = s.key := rfl
@[simp] theorem setDT_runState (v : Byte) : (s.setDT v).runState = s.runState := rfl
@[simp] theorem setDT_paused (v : Byte) : (s.setDT v).paused = s.paused := rfl
@[simp] theorem setDT_rng (v : Byte) : (s.setDT v).rng = s.rng := rfl
@[simp] theorem setDT_config (v : Byte) : (s.setDT v).config = s.config := rfl
@[simp] theorem setDT_pending (v : Byte) : (s.setDT v).pending = s.pending := rfl

/-! ### setST -/
@[simp] theorem setST_mem (v : Byte) : (s.setST v).mem = s.mem := rfl
@[simp] theorem setST_V (v : Byte) : (s.setST v).V = s.V := rfl
@[simp] theorem setST_pc (v : Byte) : (s.setST v).pc = s.pc := rfl
@[simp] theorem setST_I (v : Byte) : (s.setST v).I = s.I := rfl
@[simp] theorem setST_stack (v : Byte) : (s.setST v).stack = s.stack := rfl
@[simp] theorem setST_SP (v : Byte) : (s.setST v).SP = s.SP := rfl
@[simp] theorem setST_DT (v : Byte) : (s.setST v).DT = s.DT := rfl
@[simp] theorem setST_ST (v : Byte) : (s.setST v).ST = v := rfl
@[simp] theorem setST_fb (v : Byte) : (s.setST v).fb = s.fb := rfl
@[simp] theorem setST_key (v : Byte) : (s.setST v).key = s.key := rfl
@[simp] theorem setST_runState (v : Byte) : (s.setST v).runState = s.runState := rfl
@[simp] theorem setST_paused (v : Byte) : (s.setST v).paused = s.paused := rfl
@[simp] theorem setST_rng (v : Byte) : (s.setST v).rng = s.rng := rfl
@[simp] theorem setST_config (v : Byte) : (s.setST v).config = s.config := rfl
@[simp] theorem setST_pending (v : Byte) : (s.setST v).pending = s.pending := rfl

/-! ### setFb -/
@[simp] theorem setFb_mem (f : Framebuffer) : (s.setFb f).mem = s.mem := rfl
@[simp] theorem setFb_V (f : Framebuffer) : (s.setFb f).V = s.V := rfl
@[simp] theorem setFb_pc (f : Framebuffer) : (s.setFb f).pc = s.pc := rfl
@[simp] theorem setFb_I (f : Framebuffer) : (s.setFb f).I = s.I := rfl
@[simp] theorem setFb_stack (f : Framebuffer) : (s.setFb f).stack = s.stack := rfl
@[simp] theorem setFb_SP (f : Framebuffer) : (s.setFb f).SP = s.SP := rfl
@[simp] theorem setFb_DT (f : Framebuffer) : (s.setFb f).DT = s.DT := rfl
@[simp] theorem setFb_ST (f : Framebuffer) : (s.setFb f).ST = s.ST := rfl
@[simp] theorem setFb_fb (f : Framebuffer) : (s.setFb f).fb = f := rfl
@[simp] theorem setFb_key (f : Framebuffer) : (s.setFb f).key = s.key := rfl
@[simp] theorem setFb_runState (f : Framebuffer) : (s.setFb f).runState = s.runState := rfl
@[simp] theorem setFb_paused (f : Framebuffer) : (s.setFb f).paused = s.paused := rfl
@[simp] theorem setFb_rng (f : Framebuffer) : (s.setFb f).rng = s.rng := rfl
@[simp] theorem setFb_config (f : Framebuffer) : (s.setFb f).config = s.config := rfl
@[simp] theorem setFb_pending (f : Framebuffer) : (s.setFb f).pending = s.pending := rfl

/-! ### setKey -/
@[simp] theorem setKey_mem (k : Keys) : (s.setKey k).mem = s.mem := rfl
@[simp] theorem setKey_V (k : Keys) : (s.setKey k).V = s.V := rfl
@[simp] theorem setKey_pc (k : Keys) : (s.setKey k).pc = s.pc := rfl
@[simp] theorem setKey_I (k : Keys) : (s.setKey k).I = s.I := rfl
@[simp] theorem setKey_stack (k : Keys) : (s.setKey k).stack = s.stack := rfl
@[simp] theorem setKey_SP (k : Keys) : (s.setKey k).SP = s.SP := rfl
@[simp] theorem setKey_DT (k : Keys) : (s.setKey k).DT = s.DT := rfl
@[simp] theorem setKey_ST (k : Keys) : (s.setKey k).ST = s.ST := rfl
@[simp] theorem setKey_fb (k : Keys) : (s.setKey k).fb = s.fb := rfl
@[simp] theorem setKey_key (k : Keys) : (s.setKey k).key = k := rfl
@[simp] theorem setKey_runState (k : Keys) : (s.setKey k).runState = s.runState := rfl
@[simp] theorem setKey_paused (k : Keys) : (s.setKey k).paused = s.paused := rfl
@[simp] theorem setKey_rng (k : Keys) : (s.setKey k).rng = s.rng := rfl
@[simp] theorem setKey_config (k : Keys) : (s.setKey k).config = s.config := rfl
@[simp] theorem setKey_pending (k : Keys) : (s.setKey k).pending = s.pending := rfl

/-! ### setRunState -/
@[simp] theorem setRunState_mem (r : RunState) : (s.setRunState r).mem = s.mem := rfl
@[simp] theorem setRunState_V (r : RunState) : (s.setRunState r).V = s.V := rfl
@[simp] theorem setRunState_pc (r : RunState) : (s.setRunState r).pc = s.pc := rfl
@[simp] theorem setRunState_I (r : RunState) : (s.setRunState r).I = s.I := rfl
@[simp] theorem setRunState_stack (r : RunState) : (s.setRunState r).stack = s.stack := rfl
@[simp] theorem setRunState_SP (r : RunState) : (s.setRunState r).SP = s.SP := rfl
@[simp] theorem setRunState_DT (r : RunState) : (s.setRunState r).DT = s.DT := rfl
@[simp] theorem setRunState_ST (r : RunState) : (s.setRunState r).ST = s.ST := rfl
@[simp] theorem setRunState_fb (r : RunState) : (s.setRunState r).fb = s.fb := rfl
@[simp] theorem setRunState_key (r : RunState) : (s.setRunState r).key = s.key := rfl
@[simp] theorem setRunState_runState (r : RunState) : (s.setRunState r).runState = r := rfl
@[simp] theorem setRunState_paused (r : RunState) : (s.setRunState r).paused = s.paused := rfl
@[simp] theorem setRunState_rng (r : RunState) : (s.setRunState r).rng = s.rng := rfl
@[simp] theorem setRunState_config (r : RunState) : (s.setRunState r).config = s.config := rfl
@[simp] theorem setRunState_pending (r : RunState) : (s.setRunState r).pending = s.pending := rfl

/-! ### setPaused -/
@[simp] theorem setPaused_mem (p : Bool) : (s.setPaused p).mem = s.mem := rfl
@[simp] theorem setPaused_V (p : Bool) : (s.setPaused p).V = s.V := rfl
@[simp] theorem setPaused_pc (p : Bool) : (s.setPaused p).pc = s.pc := rfl
@[simp] theorem setPaused_I (p : Bool) : (s.setPaused p).I = s.I := rfl
@[simp] theorem setPaused_stack (p : Bool) : (s.setPaused p).stack = s.stack := rfl
@[simp] theorem setPaused_SP (p : Bool) : (s.setPaused p).SP = s.SP := rfl
@[simp] theorem setPaused_DT (p : Bool) : (s.setPaused p).DT = s.DT := rfl
@[simp] theorem setPaused_ST (p : Bool) : (s.setPaused p).ST = s.ST := rfl
@[simp] theorem setPaused_fb (p : Bool) : (s.setPaused p).fb = s.fb := rfl
@[simp] theorem setPaused_key (p : Bool) : (s.setPaused p).key = s.key := rfl
@[simp] theorem setPaused_runState (p : Bool) : (s.setPaused p).runState = s.runState := rfl
@[simp] theorem setPaused_paused (p : Bool) : (s.setPaused p).paused = p := rfl
@[simp] theorem setPaused_rng (p : Bool) : (s.setPaused p).rng = s.rng := rfl
@[simp] theorem setPaused_config (p : Bool) : (s.setPaused p).config = s.config := rfl
@[simp] theorem setPaused_pending (p : Bool) : (s.setPaused p).pending = s.pending := rfl

/-! ### setRng -/
@[simp] theorem setRng_mem (g : Nat) : (s.setRng g).mem = s.mem := rfl
@[simp] theorem setRng_V (g : Nat) : (s.setRng g).V = s.V := rfl
@[simp] theorem setRng_pc (g : Nat) : (s.setRng g).pc = s.pc := rfl
@[simp] theorem setRng_I (g : Nat) : (s.setRng g).I = s.I := rfl
@[simp] theorem setRng_stack (g : Nat) : (s.setRng g).stack = s.stack := rfl
@[simp] theorem setRng_SP (g : Nat) : (s.setRng g).SP = s.SP := rfl
@[simp] theorem setRng_DT (g : Nat) : (s.setRng g).DT = s.DT := rfl
@[simp] theorem setRng_ST (g : Nat) : (s.setRng g).ST = s.ST := rfl
@[simp] theorem setRng_fb (g : Nat) : (s.setRng g).fb = s.fb := rfl
@[simp] theorem setRng_key (g : Nat) : (s.setRng g).key = s.key := rfl
@[simp] theorem setRng_runState (g : Nat) : (s.setRng g).runState = s.runState := rfl
@[simp] theorem setRng_paused (g : Nat) : (s.setRng g).paused = s.paused := rfl
@[simp] theorem setRng_rng (g : Nat) : (s.setRng g).rng = g := rfl
@[simp] theorem setRng_config (g : Nat) : (s.setRng g).config = s.config := rfl
@[simp] theorem setRng_pending (g : Nat) : (s.setRng g).pending = s.pending := rfl

/-! ### setMem -/
@[simp] theorem setMem_mem (m : Memory) : (s.setMem m).mem = m := rfl
@[simp] theorem setMem_V (m : Memory) : (s.setMem m).V = s.V := rfl
@[simp] theorem setMem_pc (m : Memory) : (s.setMem m).pc = s.pc := rfl
@[simp] theorem setMem_I (m : Memory) : (s.setMem m).I = s.I := rfl
@[simp] theorem setMem_stack (m : Memory) : (s.setMem m).stack = s.stack := rfl
@[simp] theorem setMem_SP (m : Memory) : (s.setMem m).SP = s.SP := rfl
@[simp] theorem setMem_DT (m : Memory) : (s.setMem m).DT = s.DT := rfl
@[simp] theorem setMem_ST (m : Memory) : (s.setMem m).ST = s.ST := rfl
@[simp] theorem setMem_fb (m : Memory) : (s.setMem m).fb = s.fb := rfl
@[simp] theorem setMem_key (m : Memory) : (s.setMem m).key = s.key := rfl
@[simp] theorem setMem_runState (m : Memory) : (s.setMem m).runState = s.runState := rfl
@[simp] theorem setMem_paused (m : Memory) : (s.setMem m).paused = s.paused := rfl
@[simp] theorem setMem_rng (m : Memory) : (s.setMem m).rng = s.rng := rfl
@[simp] theorem setMem_config (m : Memory) : (s.setMem m).config = s.config := rfl
@[simp] theorem setMem_pending (m : Memory) : (s.setMem m).pending = s.pending := rfl

/-! ### setPending -/
@[simp] theorem setPending_mem (es : List Event) : (s.setPending es).mem = s.mem := rfl
@[simp] theorem setPending_V (es : List Event) : (s.setPending es).V = s.V := rfl
@[simp] theorem setPending_pc (es : List Event) : (s.setPending es).pc = s.pc := rfl
@[simp] theorem setPending_I (es : List Event) : (s.setPending es).I = s.I := rfl
@[simp] theorem setPending_stack (es : List Event) : (s.setPending es).stack = s.stack := rfl
@[simp] theorem setPending_SP (es : List Event) : (s.setPending es).SP = s.SP := rfl
@[simp] theorem setPending_DT (es : List Event) : (s.setPending es).DT = s.DT := rfl
@[simp] theorem setPending_ST (es : List Event) : (s.setPending es).ST = s.ST := rfl
@[simp] theorem setPending_fb (es : List Event) : (s.setPending es).fb = s.fb := rfl
@[simp] theorem setPending_key (es : List Event) : (s.setPending es).key = s.key := rfl
@[simp] theorem setPending_runState (es : List Event) : (s.setPending es).runState = s.runState := rfl
@[simp] theorem setPending_paused (es : List Event) : (s.setPending es).paused = s.paused := rfl
@[simp] theorem setPending_rng (es : List Event) : (s.setPending es).rng = s.rng := rfl
@[simp] theorem setPending_config (es : List Event) : (s.setPending es).config = s.config := rfl
@[simp] theorem setPending_pending (es : List Event) : (s.setPending es).pending = es := rfl

/-! ### writeByte -/
@[simp] theorem writeByte_mem (a : Nat) (b : Byte) : (s.writeByte a b).mem = Memory.write s.config.fontData s.mem a b := rfl
@[simp] theorem writeByte_V (a : Nat) (b : Byte) : (s.writeByte a b).V = s.V := rfl
@[simp] theorem writeByte_pc (a : Nat) (b : Byte) : (s.writeByte a b).pc = s.pc := rfl
@[simp] theorem writeByte_I (a : Nat) (b : Byte) : (s.writeByte a b).I = s.I := rfl
@[simp] theorem writeByte_stack (a : Nat) (b : Byte) : (s.writeByte a b).stack = s.stack := rfl
@[simp] theorem writeByte_SP (a : Nat) (b : Byte) : (s.writeByte a b).SP = s.SP := rfl
@[simp] theorem writeByte_DT (a : Nat) (b : Byte) : (s.writeByte a b).DT = s.DT := rfl
@[simp] theorem writeByte_ST (a : Nat) (b : Byte) : (s.writeByte a b).ST = s.ST := rfl
@[simp] theorem writeByte_fb (a : Nat) (b : Byte) : (s.writeByte a b).fb = s.fb := rfl
@[simp] theorem writeByte_key (a : Nat) (b : Byte) : (s.writeByte a b).key = s.key := rfl
@[simp] theorem writeByte_runState (a : Nat) (b : Byte) : (s.writeByte a b).runState = s.runState := rfl
@[simp] theorem writeByte_paused (a : Nat) (b : Byte) : (s.writeByte a b).paused = s.paused := rfl
@[simp] theorem writeByte_rng (a : Nat) (b : Byte) : (s.writeByte a b).rng = s.rng := rfl
@[simp] theorem writeByte_config (a : Nat) (b : Byte) : (s.writeByte a b).config = s.config := rfl
@[simp] theorem writeByte_pending (a : Nat) (b : Byte) : (s.writeByte a b).pending = s.pending := rfl

/-! ### takeFault -/
@[simp] theorem takeFault_mem (k : FaultKind) (p : Word) (w : Option Word) (n : Option Nat) : (s.takeFault k p w n).mem = s.mem := rfl
@[simp] theorem takeFault_V (k : FaultKind) (p : Word) (w : Option Word) (n : Option Nat) : (s.takeFault k p w n).V = s.V := rfl
@[simp] theorem takeFault_pc (k : FaultKind) (p : Word) (w : Option Word) (n : Option Nat) : (s.takeFault k p w n).pc = p := rfl
@[simp] theorem takeFault_I (k : FaultKind) (p : Word) (w : Option Word) (n : Option Nat) : (s.takeFault k p w n).I = s.I := rfl
@[simp] theorem takeFault_stack (k : FaultKind) (p : Word) (w : Option Word) (n : Option Nat) : (s.takeFault k p w n).stack = s.stack := rfl
@[simp] theorem takeFault_SP (k : FaultKind) (p : Word) (w : Option Word) (n : Option Nat) : (s.takeFault k p w n).SP = s.SP := rfl
@[simp] theorem takeFault_DT (k : FaultKind) (p : Word) (w : Option Word) (n : Option Nat) : (s.takeFault k p w n).DT = s.DT := rfl
@[simp] theorem takeFault_ST (k : FaultKind) (p : Word) (w : Option Word) (n : Option Nat) : (s.takeFault k p w n).ST = s.ST := rfl
@[simp] theorem takeFault_fb (k : FaultKind) (p : Word) (w : Option Word) (n : Option Nat) : (s.takeFault k p w n).fb = s.fb := rfl
@[simp] theorem takeFault_key (k : FaultKind) (p : Word) (w : Option Word) (n : Option Nat) : (s.takeFault k p w n).key = s.key := rfl
@[simp] theorem takeFault_runState (k : FaultKind) (p : Word) (w : Option Word) (n : Option Nat) : (s.takeFault k p w n).runState = .faulted ⟨k, p, w, n⟩ := rfl
@[simp] theorem takeFault_paused (k : FaultKind) (p : Word) (w : Option Word) (n : Option Nat) : (s.takeFault k p w n).paused = s.paused := rfl
@[simp] theorem takeFault_rng (k : FaultKind) (p : Word) (w : Option Word) (n : Option Nat) : (s.takeFault k p w n).rng = s.rng := rfl
@[simp] theorem takeFault_config (k : FaultKind) (p : Word) (w : Option Word) (n : Option Nat) : (s.takeFault k p w n).config = s.config := rfl
@[simp] theorem takeFault_pending (k : FaultKind) (p : Word) (w : Option Word) (n : Option Nat) : (s.takeFault k p w n).pending = s.pending := rfl

/-! ### skipIf -/

@[simp] theorem skipIf_pc (c : Bool) : (s.skipIf c).pc = if c then s.pc + 2 else s.pc := by cases c <;> rfl
@[simp] theorem skipIf_mem (c : Bool) : (s.skipIf c).mem = s.mem := by cases c <;> rfl
@[simp] theorem skipIf_V (c : Bool) : (s.skipIf c).V = s.V := by cases c <;> rfl
@[simp] theorem skipIf_I (c : Bool) : (s.skipIf c).I = s.I := by cases c <;> rfl
@[simp] theorem skipIf_stack (c : Bool) : (s.skipIf c).stack = s.stack := by cases c <;> rfl
@[simp] theorem skipIf_SP (c : Bool) : (s.skipIf c).SP = s.SP := by cases c <;> rfl
@[simp] theorem skipIf_DT (c : Bool) : (s.skipIf c).DT = s.DT := by cases c <;> rfl
@[simp] theorem skipIf_ST (c : Bool) : (s.skipIf c).ST = s.ST := by cases c <;> rfl
@[simp] theorem skipIf_fb (c : Bool) : (s.skipIf c).fb = s.fb := by cases c <;> rfl
@[simp] theorem skipIf_key (c : Bool) : (s.skipIf c).key = s.key := by cases c <;> rfl
@[simp] theorem skipIf_runState (c : Bool) : (s.skipIf c).runState = s.runState := by cases c <;> rfl
@[simp] theorem skipIf_paused (c : Bool) : (s.skipIf c).paused = s.paused := by cases c <;> rfl
@[simp] theorem skipIf_rng (c : Bool) : (s.skipIf c).rng = s.rng := by cases c <;> rfl
@[simp] theorem skipIf_config (c : Bool) : (s.skipIf c).config = s.config := by cases c <;> rfl
@[simp] theorem skipIf_pending (c : Bool) : (s.skipIf c).pending = s.pending := by cases c <;> rfl

/-! ### memWrite -/

@[simp] theorem memWrite_mem (a : Nat) (b : Byte) :
    (s.memWrite a b).mem = Memory.write s.config.fontData s.mem (ea a) b := rfl
@[simp] theorem memWrite_V (a : Nat) (b : Byte) : (s.memWrite a b).V = s.V := rfl
@[simp] theorem memWrite_pc (a : Nat) (b : Byte) : (s.memWrite a b).pc = s.pc := rfl
@[simp] theorem memWrite_I (a : Nat) (b : Byte) : (s.memWrite a b).I = s.I := rfl
@[simp] theorem memWrite_stack (a : Nat) (b : Byte) : (s.memWrite a b).stack = s.stack := rfl
@[simp] theorem memWrite_SP (a : Nat) (b : Byte) : (s.memWrite a b).SP = s.SP := rfl
@[simp] theorem memWrite_DT (a : Nat) (b : Byte) : (s.memWrite a b).DT = s.DT := rfl
@[simp] theorem memWrite_ST (a : Nat) (b : Byte) : (s.memWrite a b).ST = s.ST := rfl
@[simp] theorem memWrite_fb (a : Nat) (b : Byte) : (s.memWrite a b).fb = s.fb := rfl
@[simp] theorem memWrite_key (a : Nat) (b : Byte) : (s.memWrite a b).key = s.key := rfl
@[simp] theorem memWrite_runState (a : Nat) (b : Byte) : (s.memWrite a b).runState = s.runState := rfl
@[simp] theorem memWrite_paused (a : Nat) (b : Byte) : (s.memWrite a b).paused = s.paused := rfl
@[simp] theorem memWrite_rng (a : Nat) (b : Byte) : (s.memWrite a b).rng = s.rng := rfl
@[simp] theorem memWrite_config (a : Nat) (b : Byte) : (s.memWrite a b).config = s.config := rfl
@[simp] theorem memWrite_pending (a : Nat) (b : Byte) : (s.memWrite a b).pending = s.pending := rfl

/-! ### Reading a register -/

/-- A register after a write of a register. -/
theorem getV_setV (x r : Nibble) (b : Byte) : (s.setV x b).getV r = if r = x then b else s.getV r := by
  by_cases h : r = x
  · subst h; simp [getV, setV]
  · have : x.val ≠ r.val := fun e => h (Fin.ext e.symm)
    simp [getV, setV, h, this]

@[simp] theorem getV_setV_self (x : Nibble) (b : Byte) : (s.setV x b).getV x = b := by simp [getV_setV]

@[simp] theorem getV_setV_of_ne {x r : Nibble} (b : Byte) (h : r ≠ x) : (s.setV x b).getV r = s.getV r := by
  simp [getV_setV, h]

theorem getV_setVF (r : Nibble) (b : Byte) : (s.setVF b).getV r = if r = 15 then b else s.getV r := s.getV_setV 15 r b

@[simp] theorem getV_setVF_self (b : Byte) : (s.setVF b).getV 15 = b := s.getV_setV_self 15 b

@[simp] theorem getV_setVF_of_ne {r : Nibble} (b : Byte) (h : r ≠ 15) : (s.setVF b).getV r = s.getV r :=
  s.getV_setV_of_ne b h

@[simp] theorem getV_setPc (t : Word) (r : Nibble) : (s.setPc t).getV r = s.getV r := rfl
@[simp] theorem getV_advancePc (r : Nibble) : (s.advancePc).getV r = s.getV r := rfl
@[simp] theorem getV_setI (v : Word) (r : Nibble) : (s.setI v).getV r = s.getV r := rfl
@[simp] theorem getV_setDT (v : Byte) (r : Nibble) : (s.setDT v).getV r = s.getV r := rfl
@[simp] theorem getV_setST (v : Byte) (r : Nibble) : (s.setST v).getV r = s.getV r := rfl
@[simp] theorem getV_setFb (f : Framebuffer) (r : Nibble) : (s.setFb f).getV r = s.getV r := rfl
@[simp] theorem getV_setKey (k : Keys) (r : Nibble) : (s.setKey k).getV r = s.getV r := rfl
@[simp] theorem getV_setRunState (q : RunState) (r : Nibble) : (s.setRunState q).getV r = s.getV r := rfl
@[simp] theorem getV_setPaused (p : Bool) (r : Nibble) : (s.setPaused p).getV r = s.getV r := rfl
@[simp] theorem getV_setRng (g : Nat) (r : Nibble) : (s.setRng g).getV r = s.getV r := rfl
@[simp] theorem getV_setMem (m : Memory) (r : Nibble) : (s.setMem m).getV r = s.getV r := rfl
@[simp] theorem getV_setPending (es : List Event) (r : Nibble) : (s.setPending es).getV r = s.getV r := rfl
@[simp] theorem getV_writeByte (a : Nat) (b : Byte) (r : Nibble) : (s.writeByte a b).getV r = s.getV r := rfl
@[simp] theorem getV_takeFault (k : FaultKind) (p : Word) (w : Option Word) (n : Option Nat) (r : Nibble) : (s.takeFault k p w n).getV r = s.getV r := rfl
@[simp] theorem getV_skipIf (c : Bool) (r : Nibble) : (s.skipIf c).getV r = s.getV r := by cases c <;> rfl
@[simp] theorem getV_memWrite (a : Nat) (b : Byte) (r : Nibble) : (s.memWrite a b).getV r = s.getV r := rfl

/-! ### Reading a byte of memory -/

@[simp] theorem readByte_setV (x : Nibble) (b : Byte) (a : Nat) : (s.setV x b).readByte a = s.readByte a := rfl
@[simp] theorem readByte_setVF (b : Byte) (a : Nat) : (s.setVF b).readByte a = s.readByte a := rfl
@[simp] theorem readByte_setPc (t : Word) (a : Nat) : (s.setPc t).readByte a = s.readByte a := rfl
@[simp] theorem readByte_advancePc (a : Nat) : (s.advancePc).readByte a = s.readByte a := rfl
@[simp] theorem readByte_setI (v : Word) (a : Nat) : (s.setI v).readByte a = s.readByte a := rfl
@[simp] theorem readByte_setDT (v : Byte) (a : Nat) : (s.setDT v).readByte a = s.readByte a := rfl
@[simp] theorem readByte_setST (v : Byte) (a : Nat) : (s.setST v).readByte a = s.readByte a := rfl
@[simp] theorem readByte_setFb (f : Framebuffer) (a : Nat) : (s.setFb f).readByte a = s.readByte a := rfl
@[simp] theorem readByte_setKey (k : Keys) (a : Nat) : (s.setKey k).readByte a = s.readByte a := rfl
@[simp] theorem readByte_setRunState (r : RunState) (a : Nat) : (s.setRunState r).readByte a = s.readByte a := rfl
@[simp] theorem readByte_setPaused (p : Bool) (a : Nat) : (s.setPaused p).readByte a = s.readByte a := rfl
@[simp] theorem readByte_setRng (g : Nat) (a : Nat) : (s.setRng g).readByte a = s.readByte a := rfl
@[simp] theorem readByte_setPending (es : List Event) (a : Nat) : (s.setPending es).readByte a = s.readByte a := rfl
@[simp] theorem readByte_takeFault (k : FaultKind) (p : Word) (w : Option Word) (n : Option Nat) (a : Nat) : (s.takeFault k p w n).readByte a = s.readByte a := rfl
@[simp] theorem readByte_skipIf (c : Bool) (a : Nat) : (s.skipIf c).readByte a = s.readByte a := by cases c <;> rfl

/-! ### Two states -/

/-- States with equal fields are equal. -/
theorem ext_fields {s t : State} (hmem : s.mem = t.mem) (hV : s.V = t.V) (hpc : s.pc = t.pc) (hI : s.I = t.I)
    (hstack : s.stack = t.stack) (hSP : s.SP = t.SP) (hDT : s.DT = t.DT) (hST : s.ST = t.ST) (hfb : s.fb = t.fb)
    (hkey : s.key = t.key) (hrun : s.runState = t.runState) (hpaused : s.paused = t.paused) (hrng : s.rng = t.rng)
    (hconfig : s.config = t.config) (hpending : s.pending = t.pending) : s = t := by
  cases s; cases t; simp_all

end Sys2Proof.Machine.State
end

