-- ==== Sys2Proof/Laws/Memory.lean ====
section
/-! SUPPORT. Laws/Memory.lean: the laws of memory. Read after write, every other byte left alone, and the canonical form kept by
every operation. -/

namespace Sys2Proof.Machine

namespace Memory

variable (font : Vector Byte 80)

/-! ## Reading -/

theorem lookup_insert (m : Memory) (a c : Nat) (b : Byte) :
    lookup (insert m a b) c = if c = a then some b else lookup m c := by
  induction m with
  | nil => by_cases h : a = c <;> simp [insert, lookup, h, eq_comm]
  | cons e rest ih =>
    obtain ⟨k, v⟩ := e
    simp only [insert]
    split
    · by_cases h : a = c <;> simp [lookup, h, eq_comm]
    · split
      · rename_i h; subst h
        by_cases h : a = c <;> simp [lookup, h, eq_comm]
      · simp only [lookup, ih]
        by_cases hk : k = c <;> by_cases hc : c = a <;> simp_all

theorem lookup_filter (m : Memory) (p : Nat → Bool) (c : Nat) :
    lookup (m.filter (fun e => p e.1)) c = if p c then lookup m c else none := by
  induction m with
  | nil => simp [lookup]
  | cons e rest ih =>
    obtain ⟨k, v⟩ := e
    by_cases hp : p k <;> by_cases hk : k = c <;> simp_all [lookup]

theorem lookup_erase (m : Memory) (a c : Nat) : lookup (erase m a) c = if c = a then none else lookup m c := by
  rw [erase, lookup_filter m (fun k => k != a) c]
  by_cases h : c = a <;> simp [h]

/-- Read after write: the byte written at its address, every other address as before (R71). -/
theorem read_write (m : Memory) (a c : Nat) (b : Byte) :
    read font (write font m a b) c = if c = a then b else read font m c := by
  unfold read write
  split
  · rename_i h; by_cases hc : c = a <;> simp [lookup_erase, hc, h]
  · by_cases hc : c = a <;> simp [lookup_insert, hc]

@[simp] theorem read_write_self (m : Memory) (a : Nat) (b : Byte) : read font (write font m a b) a = b := by
  simp [read_write]

@[simp] theorem read_write_of_ne (m : Memory) {a c : Nat} (b : Byte) (h : c ≠ a) :
    read font (write font m a b) c = read font m c := by
  simp [read_write, h]

@[simp] theorem read_nil (a : Nat) : read font [] a = background font a := rfl

/-- The copy of a byte string: byte `j` at `a + j`, every other address as before (R301). -/
theorem read_writeBytes (bs : List Byte) : ∀ (m : Memory) (a c : Nat),
    read font (writeBytes font m a bs) c = if h : a ≤ c ∧ c - a < bs.length then bs[c - a] else read font m c := by
  induction bs with
  | nil => intro m a c; simp [writeBytes]
  | cons b rest ih =>
    intro m a c
    rw [writeBytes, ih]
    by_cases h1 : a + 1 ≤ c ∧ c - (a + 1) < rest.length
    · have h2 : a ≤ c ∧ c - a < (b :: rest).length := by simp only [List.length_cons]; omega
      have h3 : c - a = c - (a + 1) + 1 := by omega
      rw [dif_pos h1, dif_pos h2]
      simp only [h3, List.getElem_cons_succ]
    · rw [dif_neg h1, read_write]
      by_cases hc : c = a
      · subst hc; simp
      · have h2 : ¬(a ≤ c ∧ c - a < (b :: rest).length) := by simp only [List.length_cons]; omega
        rw [if_neg hc, dif_neg h2]

/-- Clearing from `lo`: an address at or above `lo` reads as its reset content, one below as before (R301). -/
theorem read_clearFrom (lo : Nat) (m : Memory) (c : Nat) :
    read font (clearFrom lo m) c = if c < lo then read font m c else background font c := by
  unfold read clearFrom
  rw [lookup_filter m (fun k => decide (k < lo)) c]
  by_cases h : c < lo <;> simp [h]

theorem background_of_ge {a : Nat} (h : 80 ≤ a) : background font a = 0 := by simp [background, Nat.not_lt.mpr h]

/-! ## The canonical form -/

theorem wfFrom_mono {lo lo' : Nat} (h : lo' ≤ lo) : ∀ {m : Memory}, wfFrom font lo m = true → wfFrom font lo' m = true
  | [], _ => rfl
  | (k, b) :: rest, hw => by
    simp only [wfFrom, Bool.and_eq_true, decide_eq_true_eq] at hw ⊢
    exact ⟨⟨⟨by omega, hw.1.1.2⟩, hw.1.2⟩, hw.2⟩

theorem wfFrom_filter (p : Host.Cell → Bool) : ∀ (m : Memory) (lo : Nat),
    wfFrom font lo m = true → wfFrom font lo (m.filter p) = true
  | [], _, h => h
  | (k, b) :: rest, lo, h => by
    simp only [wfFrom, Bool.and_eq_true, decide_eq_true_eq] at h
    have ih := wfFrom_filter p rest (k + 1) h.2
    by_cases hp : p (k, b)
    · simp only [List.filter_cons_of_pos hp, wfFrom, Bool.and_eq_true, decide_eq_true_eq]
      exact ⟨h.1, ih⟩
    · rw [List.filter_cons_of_neg hp]
      exact wfFrom_mono font (by omega) ih

theorem wfFrom_insert {a : Nat} {b : Byte} (ha : a < memSize) (hb : b ≠ background font a) : ∀ (m : Memory) (lo : Nat),
    lo ≤ a → wfFrom font lo m = true → wfFrom font lo (insert m a b) = true
  | [], lo, hlo, _ => by simp [insert, wfFrom, hlo, ha, hb]
  | (k, c) :: rest, lo, hlo, h => by
    have h' := h
    simp only [wfFrom, Bool.and_eq_true, decide_eq_true_eq] at h
    simp only [insert]
    split
    · rename_i hk
      have : wfFrom font (a + 1) ((k, c) :: rest) = true := by
        simp only [wfFrom, Bool.and_eq_true, decide_eq_true_eq]
        exact ⟨⟨⟨by omega, h.1.1.2⟩, h.1.2⟩, h.2⟩
      rw [wfFrom]
      simp [hlo, ha, hb, this]
    · split
      · rename_i hk; subst hk
        rw [wfFrom]
        simp [hlo, ha, hb, h.2]
      · have ih := wfFrom_insert ha hb rest (k + 1) (by omega) h.2
        rw [wfFrom]
        simp only [Bool.and_eq_true, decide_eq_true_eq]
        exact ⟨h.1, ih⟩

/-- A write inside memory keeps the canonical form. -/
theorem write_wf {m : Memory} {a : Nat} (b : Byte) (ha : a < memSize) (h : wf font m = true) :
    wf font (write font m a b) = true := by
  unfold write
  split
  · exact wfFrom_filter font _ m 0 h
  · rename_i hb; exact wfFrom_insert font ha hb m 0 (Nat.zero_le _) h

/-- Clearing keeps the canonical form. -/
theorem clearFrom_wf {m : Memory} (lo : Nat) (h : wf font m = true) : wf font (clearFrom lo m) = true :=
  wfFrom_filter font _ m 0 h

/-- The copy of a byte string that fits in memory keeps the canonical form. -/
theorem writeBytes_wf : ∀ (bs : List Byte) {m : Memory} {a : Nat}, a + bs.length ≤ memSize → wf font m = true →
    wf font (writeBytes font m a bs) = true
  | [], _, _, _, h => h
  | b :: rest, m, a, hl, h => by
    rw [writeBytes]
    simp only [List.length_cons] at hl
    exact writeBytes_wf rest (by omega) (write_wf font b (by omega) h)

@[simp] theorem wf_nil : wf font [] = true := rfl

end Memory

/-! ## Through the state -/

theorem ea_lt (a : Nat) : ea a < memSize := Nat.mod_lt _ (by decide)

/-- `EA(a) = a mod 4096` as a number (R68). -/
theorem ea_eq_mod (a : Nat) : ea a = a % 4096 := rfl

/-- Inside memory `EA(a) = a`, under either policy (R68, R69, log 7). -/
theorem ea_of_lt {a : Nat} (h : a < memSize) : ea a = a := Nat.mod_eq_of_lt h

namespace State

variable (s : State)

theorem readByte_writeByte (a c : Nat) (b : Byte) :
    (s.writeByte a b).readByte c = if c = a then b else s.readByte c :=
  Memory.read_write s.config.fontData s.mem a c b

theorem readByte_memWrite (a c : Nat) (b : Byte) :
    (s.memWrite a b).readByte c = if c = ea a then b else s.readByte c := s.readByte_writeByte (ea a) c b

theorem readByte_setMem (m : Memory) (c : Nat) : (s.setMem m).readByte c = Memory.read s.config.fontData m c := rfl

/-- `MemWrite` keeps the canonical form. -/
theorem memWrite_wf (a : Nat) (b : Byte) (h : Memory.wf s.config.fontData s.mem = true) :
    Memory.wf s.config.fontData (s.memWrite a b).mem = true := Memory.write_wf _ b (ea_lt a) h

end State

end Sys2Proof.Machine
end

