-- ==== Sys2Proof/Laws/Ops.lean ====
section
/-! SUPPORT. Laws/Ops.lean: what each shared operation can do, said once: the call stack, raising a fault, the range check, the
multi-byte transfers, a pixel, a sprite row. -/

namespace Sys2Proof.Machine

namespace State

variable (s : State)

/-! ## The call stack (R26) -/

/-- A push below the capacity writes one slot and counts it. -/
theorem push_of_lt (a : Word) (h : s.SP.val < 16) :
    s.push a = some { s with stack := s.stack.set s.SP.val a, SP := ⟨s.SP.val + 1, by omega⟩ } := dif_pos h

/-- A push at the capacity fails. -/
theorem push_of_full (a : Word) (h : s.SP.val = 16) : s.push a = none := dif_neg (by omega)

/-- A pop of a non-empty stack gives the newest slot and keeps its contents. -/
theorem pop_of_pos (h : 0 < s.SP.val) :
    s.pop = some (s.stack[s.SP.val - 1]'(by omega), { s with SP := ⟨s.SP.val - 1, by omega⟩ }) := dif_pos h

/-- A pop of an empty stack fails. -/
theorem pop_of_empty (h : s.SP.val = 0) : s.pop = none := dif_neg (by omega)

/-- What a successful push is. -/
theorem push_cases {a : Word} {t : State} (h : s.push a = some t) :
    ∃ hlt : s.SP.val < 16, t = { s with stack := s.stack.set s.SP.val a, SP := ⟨s.SP.val + 1, by omega⟩ } := by
  unfold push at h
  split at h
  · rename_i hlt; exact ⟨hlt, (Option.some.inj h).symm⟩
  · simp at h

/-- What a successful pop is. -/
theorem pop_cases {a : Word} {t : State} (h : s.pop = some (a, t)) :
    ∃ hpos : 0 < s.SP.val, a = s.stack[s.SP.val - 1]'(by omega) ∧
      t = { s with SP := ⟨s.SP.val - 1, by omega⟩ } := by
  unfold pop at h
  split at h
  · rename_i hpos
    simp only [Option.some.injEq, Prod.mk.injEq] at h
    exact ⟨hpos, h.1.symm, h.2.symm⟩
  · simp at h

/-! ## The range check (R69) -/

end State

/-- Under `wrap` no range is out of bounds (R68). -/
@[simp] theorem outOfBounds_wrap (base count : Nat) : outOfBounds .wrap base count = none := rfl

/-- Under `fatal` a range inside memory, or an empty one, is in bounds. -/
theorem outOfBounds_fatal_none {base count : Nat} (h : count = 0 ∨ base + count ≤ memSize) :
    outOfBounds .fatal base count = none := by
  simp only [outOfBounds, List.find?_eq_none, List.mem_map, List.mem_range]
  rintro a ⟨k, hk, rfl⟩
  simp only [decide_eq_true_eq, not_lt]
  have : memSize = 4096 := rfl
  rcases h with h | h <;> omega

/-- Under `fatal` a range that leaves memory is out of bounds, at its lowest address above `0xFFF`. -/
theorem outOfBounds_fatal_some {base count : Nat} (hc : count ≠ 0) (h : memSize < base + count) :
    outOfBounds .fatal base count = some (max base memSize) := by
  have hm : memSize = 4096 := rfl
  rw [hm] at h ⊢
  simp only [outOfBounds, List.find?_eq_some_iff_getElem]
  refine ⟨by simp, max base 4096 - base, ?_, ?_, ?_⟩
  · simp; omega
  · simp
  · intro j hj
    simp
    omega

namespace State

variable (s : State)

/-- A range that raises no fault goes on (R68, R69). -/
theorem guardRange_of_none {i : Instr} {base count : Nat} {k : Result}
    (h : outOfBounds s.config.boundsPolicy base count = none) : s.guardRange i base count k = k := by
  simp [guardRange, h]

/-- A range that leaves memory under `fatal` raises the fault before anything else (R69). -/
theorem guardRange_of_some {i : Instr} {base count a : Nat} {k : Result}
    (h : outOfBounds s.config.boundsPolicy base count = some a) :
    s.guardRange i base count k = s.raise .memoryOutOfBounds i (some a) := by
  simp [guardRange, h]

/-- The data addresses of an instruction are in range exactly when its check passes. -/
theorem outOfBounds_none_iff (count : Nat) :
    outOfBounds s.config.boundsPolicy (s.dataAddr 0) count = none ↔ s.dataInRange count := by
  unfold dataInRange
  cases h : s.config.boundsPolicy with
  | wrap => simp
  | fatal =>
    have hd : s.dataAddr 0 = s.I.toNat := rfl
    rw [hd]
    constructor
    · intro hn
      refine Or.inr ?_
      by_contra hc
      rw [not_or] at hc
      rw [outOfBounds_fatal_some hc.1 (by omega)] at hn
      simp at hn
    · rintro (h | h)
      · simp at h
      · exact outOfBounds_fatal_none h

/-- The two ways a checked instruction answers. -/
theorem guardRange_cases {i : Instr} {base count : Nat} {k : Result} {t : State}
    (h : s.guardRange i base count k = .next t) :
    (outOfBounds s.config.boundsPolicy base count = none ∧ k = .next t) ∨
    ∃ a, outOfBounds s.config.boundsPolicy base count = some a ∧
      t = s.takeFault .memoryOutOfBounds (s.pc - 2) (some (encode i)) (some a) := by
  unfold guardRange at h
  split at h
  · rename_i a ha
    refine Or.inr ⟨a, ha, ?_⟩
    simp only [raise, Host.Outcome.next.injEq] at h
    exact h.symm
  · rename_i hn; exact Or.inl ⟨hn, h⟩

/-! ## Multi-byte stores (R68, R193, R194) -/

@[simp] theorem memWriteList_nil (a : Nat) : s.memWriteList a [] = s := rfl

@[simp] theorem memWriteList_cons (a : Nat) (b : Byte) (bs : List Byte) :
    s.memWriteList a (b :: bs) = (s.memWrite a b).memWriteList (a + 1) bs := rfl

/-- A multi-byte store writes memory and nothing else. -/
theorem memWriteList_eq (bs : List Byte) : ∀ (s : State) (a : Nat),
    s.memWriteList a bs = { s with mem := (s.memWriteList a bs).mem } := by
  induction bs with
  | nil => intro s a; rfl
  | cons b rest ih =>
    intro s a
    rw [memWriteList_cons, ih (s.memWrite a b) (a + 1)]
    rfl

/-- An address none of the bytes of a store goes to reads as before. -/
theorem readByte_memWriteList_of_ne (bs : List Byte) : ∀ (s : State) (a c : Nat), (∀ k < bs.length, c ≠ ea (a + k)) →
    (s.memWriteList a bs).readByte c = s.readByte c := by
  induction bs with
  | nil => intro s a c _; rfl
  | cons b rest ih =>
    intro s a c h
    rw [memWriteList_cons, ih]
    · rw [readByte_memWrite, if_neg (by simpa using h 0 (by simp))]
    · intro k hk
      have := h (k + 1) (by simpa using hk)
      rwa [show a + 1 + k = a + (k + 1) by omega]

/-- Byte `k` of a store of at most 4096 bytes reads back at its own address. -/
theorem readByte_memWriteList (bs : List Byte) : ∀ (s : State) (a k : Nat) (hk : k < bs.length), bs.length ≤ memSize →
    (s.memWriteList a bs).readByte (ea (a + k)) = bs[k] := by
  induction bs with
  | nil => intro s a k hk; simp at hk
  | cons b rest ih =>
    intro s a k hk hl
    have hl' : rest.length + 1 ≤ 4096 := hl
    rw [memWriteList_cons]
    cases k with
    | zero =>
      rw [readByte_memWriteList_of_ne]
      · simp [readByte_memWrite]
      · intro j hj
        show (a + 0) % 4096 ≠ (a + 1 + j) % 4096
        omega
    | succ k =>
      have hk' : k < rest.length := by simpa using hk
      have := ih (s.memWrite a b) (a + 1) k hk' (by show rest.length ≤ 4096; omega)
      rw [show a + (k + 1) = a + 1 + k by omega, this]
      simp

/-- A multi-byte store keeps the canonical form of memory. -/
theorem memWriteList_wf (bs : List Byte) : ∀ (s : State) (a : Nat), Memory.wf s.config.fontData s.mem = true →
    Memory.wf s.config.fontData (s.memWriteList a bs).mem = true := by
  induction bs with
  | nil => intro s a h; exact h
  | cons b rest ih => intro s a h; exact ih (s.memWrite a b) (a + 1) (s.memWrite_wf a b h)

/-! ## Register ranges (R194, R195) -/

end State

/-- The range `V[0]` to `V[X]` holds exactly the registers up to `X`. -/
@[simp] theorem mem_regsUpTo (x r : Nibble) : r ∈ regsUpTo x ↔ r ≤ x := by revert x r; decide

@[simp] theorem regsUpTo_length (x : Nibble) : (regsUpTo x).length = x.val + 1 := by
  have := x.isLt
  simp only [regsUpTo, List.length_take, List.length_finRange]
  omega

/-- Position `k` of the range is register `k`. -/
theorem regsUpTo_getElem (x : Nibble) (k : Nat) (h : k < (regsUpTo x).length) : ((regsUpTo x)[k]).val = k := by
  simp [regsUpTo]

namespace State

variable (s : State)

@[simp] theorem loadRegs_nil (a : Nat) : s.loadRegs a [] = s := rfl

@[simp] theorem loadRegs_cons (a : Nat) (i : Nibble) (is : List Nibble) :
    s.loadRegs a (i :: is) = (s.setV i (s.memRead (a + i.val))).loadRegs a is := rfl

/-- A multi-byte load writes registers and nothing else. -/
theorem loadRegs_eq (is : List Nibble) : ∀ (s : State) (a : Nat), s.loadRegs a is = { s with V := (s.loadRegs a is).V } := by
  induction is with
  | nil => intro s a; rfl
  | cons i rest ih =>
    intro s a
    rw [loadRegs_cons, ih (s.setV i (s.memRead (a + i.val))) a]
    rfl

/-- A register named by the load holds its byte, every other one its old value. -/
theorem getV_loadRegs (is : List Nibble) : ∀ (s : State) (a : Nat) (r : Nibble),
    (s.loadRegs a is).getV r = if r ∈ is then s.memRead (a + r.val) else s.getV r := by
  induction is with
  | nil => intro s a r; simp
  | cons i rest ih =>
    intro s a r
    rw [loadRegs_cons, ih]
    have hm : ∀ c, (s.setV i (s.memRead (a + i.val))).memRead c = s.memRead c := fun _ => rfl
    rw [hm, getV_setV]
    by_cases h1 : r ∈ rest <;> by_cases h2 : r = i <;> simp_all

end State

/-! ## Pixels (R211) -/

/-- A pixel after one pixel is inverted. -/
theorem pixel_toggle (fb : Framebuffer) (px qx : Fin 64) (py qy : Fin 32) :
    (fb.toggle px py).pixel qx qy = if qx = px ∧ qy = py then !fb.pixel px py else fb.pixel qx qy := by
  by_cases hy : qy = py
  · subst hy
    by_cases hx : qx = px
    · subst hx; simp [Framebuffer.toggle, Framebuffer.pixel]
    · have : px.val ≠ qx.val := fun e => hx (Fin.ext e.symm)
      simp [Framebuffer.toggle, Framebuffer.pixel, hx, this]
  · have : py.val ≠ qy.val := fun e => hy (Fin.ext e.symm)
    simp [Framebuffer.toggle, Framebuffer.pixel, hy, this]

@[simp] theorem pixel_clear (px : Fin 64) (py : Fin 32) : Framebuffer.clear.pixel px py = false := by
  simp [Framebuffer.clear, Framebuffer.pixel]

/-- Two framebuffers with the same pixels are equal. -/
theorem framebuffer_ext {f g : Framebuffer} (h : ∀ px py, f.pixel px py = g.pixel px py) : f = g := by
  apply Vector.ext
  intro y hy
  apply Vector.ext
  intro x hx
  exact h ⟨x, hx⟩ ⟨y, hy⟩

/-- The first `k` columns of a sprite row, `k <= 8`: a pixel is inverted exactly when a 1 bit falls on it, and the collision is
remembered when such a pixel was on. -/
theorem drawRow_prefix (b : Byte) (x0 y : Nat) (acc : Framebuffer × Bool) (k : Nat) (hk : k ≤ 8) :
    let res := (List.range k).foldl
      (fun acc c => if spriteBit b c then drawPixel acc (column (x0 + c)) (row y) else acc) acc
    (∀ px py, res.1.pixel px py =
      if ∃ c, c < k ∧ spriteBit b c = true ∧ column (x0 + c) = px ∧ row y = py then !acc.1.pixel px py else acc.1.pixel px py) ∧
    (res.2 = true ↔ acc.2 = true ∨
      ∃ c, c < k ∧ spriteBit b c = true ∧ acc.1.pixel (column (x0 + c)) (row y) = true) := by
  induction k with
  | zero => simp
  | succ k ih =>
    have ih := ih (by omega)
    simp only [List.range_succ, List.foldl_append, List.foldl_cons, List.foldl_nil]
    simp only at ih
    generalize (List.range k).foldl
      (fun acc c => if spriteBit b c then drawPixel acc (column (x0 + c)) (row y) else acc) acc = res at ih
    obtain ⟨ihp, ihh⟩ := ih
    have hlt : ∀ c, c < k + 1 ↔ c < k ∨ c = k := fun c => by omega
    have hfresh : ∀ c, c < k → column (x0 + c) ≠ column (x0 + k) := by
      intro c hc e
      have : (x0 + c) % 64 = (x0 + k) % 64 := congrArg Fin.val e
      omega
    have hold : res.1.pixel (column (x0 + k)) (row y) = acc.1.pixel (column (x0 + k)) (row y) := by
      rw [ihp, if_neg]
      rintro ⟨c, hc, -, hcol, -⟩
      exact hfresh c hc hcol
    by_cases hb : spriteBit b k = true
    · simp only [hb, if_true, drawPixel]
      refine ⟨fun px py => ?_, ?_⟩
      · rw [pixel_toggle]
        by_cases hq : px = column (x0 + k) ∧ py = row y
        · obtain ⟨rfl, rfl⟩ := hq
          rw [if_pos ⟨rfl, rfl⟩, if_pos ⟨k, by omega, hb, rfl, rfl⟩, hold]
        · rw [if_neg hq, ihp]
          refine if_congr ?_ rfl rfl
          constructor
          · rintro ⟨c, hc, h⟩; exact ⟨c, by omega, h⟩
          · rintro ⟨c, hc, h1, h2, h3⟩
            rcases (hlt c).mp hc with hc | rfl
            · exact ⟨c, hc, h1, h2, h3⟩
            · exact absurd ⟨h2.symm, h3.symm⟩ hq
      · rw [hold, Bool.or_eq_true, ihh]
        constructor
        · rintro ((h | ⟨c, hc, h⟩) | h)
          · exact .inl h
          · exact .inr ⟨c, by omega, h⟩
          · exact .inr ⟨k, by omega, hb, h⟩
        · rintro (h | ⟨c, hc, h1, h2⟩)
          · exact .inl (.inl h)
          · rcases (hlt c).mp hc with hc | rfl
            · exact .inl (.inr ⟨c, hc, h1, h2⟩)
            · exact .inr h2
    · simp only [hb, Bool.false_eq_true, if_false]
      refine ⟨fun px py => ?_, ?_⟩
      · rw [ihp]
        refine if_congr ?_ rfl rfl
        constructor
        · rintro ⟨c, hc, h⟩; exact ⟨c, by omega, h⟩
        · rintro ⟨c, hc, h⟩
          rcases (hlt c).mp hc with hc | rfl
          · exact ⟨c, hc, h⟩
          · exact absurd h.1 hb
      · rw [ihh]
        refine or_congr Iff.rfl ?_
        constructor
        · rintro ⟨c, hc, h⟩; exact ⟨c, by omega, h⟩
        · rintro ⟨c, hc, h⟩
          rcases (hlt c).mp hc with hc | rfl
          · exact ⟨c, hc, h⟩
          · exact absurd h.1 hb

/-- A 1 bit of row byte `b`, drawn at column `x0` and row `y`, falls on pixel `(px, py)`. -/
def RowCovers (b : Byte) (x0 y : Nat) (px : Fin 64) (py : Fin 32) : Prop :=
  ∃ c, c < 8 ∧ spriteBit b c = true ∧ column (x0 + c) = px ∧ row y = py

/-- A pixel a 1 bit of the row falls on is inverted. -/
theorem pixel_drawRow_of_covers {b : Byte} {x0 y : Nat} (acc : Framebuffer × Bool) {px : Fin 64} {py : Fin 32}
    (h : RowCovers b x0 y px py) : (drawRow b x0 y acc).1.pixel px py = !acc.1.pixel px py :=
  ((drawRow_prefix b x0 y acc 8 (Nat.le_refl 8)).1 px py).trans (if_pos h)

/-- Every other pixel keeps its value. -/
theorem pixel_drawRow_of_not_covers {b : Byte} {x0 y : Nat} (acc : Framebuffer × Bool) {px : Fin 64} {py : Fin 32}
    (h : ¬RowCovers b x0 y px py) : (drawRow b x0 y acc).1.pixel px py = acc.1.pixel px py :=
  ((drawRow_prefix b x0 y acc 8 (Nat.le_refl 8)).1 px py).trans (if_neg h)

/-- The collision after one sprite row: set before, or one of its 1 bits fell on a pixel that was on. -/
theorem hit_drawRow (b : Byte) (x0 y : Nat) (acc : Framebuffer × Bool) :
    (drawRow b x0 y acc).2 = true ↔ acc.2 = true ∨
      ∃ c, c < 8 ∧ spriteBit b c = true ∧ acc.1.pixel (column (x0 + c)) (row y) = true :=
  (drawRow_prefix b x0 y acc 8 (Nat.le_refl 8)).2

end Sys2Proof.Machine
end

