-- ==== Sys2Proof/Laws/PerInstr.lean ====
section
/-! SUPPORT. Laws/PerInstr.lean: one fact per instruction, as syntax: its word selects its own row of the opcode map (R95, R96),
and splits into consistent fields (R91). -/

namespace Sys2Proof

/-- Format `NNN`: bits 15-12 alone are fixed (R93). -/
theorem packNNN_and (op : BitVec 4) (nnn : BitVec 12) : packNNN op nnn &&& 0xF000 = packNNN op 0 := by
  apply BitVec.eq_of_getLsbD_eq
  intro i hi
  simp only [packNNN, BitVec.getLsbD_and, BitVec.getLsbD_append]
  interval_cases i <;> simp

/-- Format `XNN`: bits 15-12 alone are fixed (R93). -/
theorem packXNN_and_op (op : BitVec 4) (x : Nibble) (nn : Byte) : packXNN op x nn &&& 0xF000 = packNNN op 0 := by
  apply BitVec.eq_of_getLsbD_eq
  intro i hi
  simp only [packXNN, packNNN, BitVec.getLsbD_and, BitVec.getLsbD_append]
  interval_cases i <;> simp

/-- Format `X`: bits 15-12 and 7-0 are fixed (R93). -/
theorem packXNN_and_sub (op : BitVec 4) (x : Nibble) (nn : Byte) :
    packXNN op x nn &&& 0xF0FF = packXNN op 0 nn := by
  apply BitVec.eq_of_getLsbD_eq
  intro i hi
  simp only [packXNN, BitVec.getLsbD_and, BitVec.getLsbD_append]
  interval_cases i <;> simp

/-- Format `XYN`: bits 15-12 alone are fixed (R93). -/
theorem packXYN_and_op (op : BitVec 4) (x y : Nibble) (n : BitVec 4) : packXYN op x y n &&& 0xF000 = packNNN op 0 := by
  apply BitVec.eq_of_getLsbD_eq
  intro i hi
  simp only [packXYN, packNNN, BitVec.getLsbD_and, BitVec.getLsbD_append]
  interval_cases i <;> simp

/-- Format `XY`: bits 15-12 and 3-0 are fixed (R93). -/
theorem packXYN_and_sub (op : BitVec 4) (x y : Nibble) (n : BitVec 4) :
    packXYN op x y n &&& 0xF00F = packXYN op 0 0 n := by
  apply BitVec.eq_of_getLsbD_eq
  intro i hi
  simp only [packXYN, BitVec.getLsbD_and, BitVec.getLsbD_append]
  interval_cases i <;> simp

/-- The fields of any word are consistent (R91). -/
theorem ofWord_wellFormed (w : Word) : (Fields.ofWord w).wellFormed = true := by
  have hb : (Fields.ofWord w).nn = (Fields.ofWord w).y ++ (Fields.ofWord w).n := by
    apply BitVec.eq_of_toNat_eq
    rw [toNat_append_eq, ofWord_nn_toNat, ofWord_y_toNat, ofWord_n_toNat]
    omega
  have ha : (Fields.ofWord w).nnn = (Fields.ofWord w).x ++ (Fields.ofWord w).nn := by
    apply BitVec.eq_of_toNat_eq
    rw [toNat_append_eq, ofWord_nnn_toNat, ofWord_x_toNat, ofWord_nn_toNat]
    omega
  simp [Fields.wellFormed, Fields.byteAgrees, Fields.addrAgrees, ← hb, ← ha]

namespace Laws.RowSelect

/-- The word of an instruction selects its row, which is a row of the map, and its fields are consistent. -/
def Statement (i : Instr) : Prop :=
  i.row.selects (encode i) = true ∧ i.row ∈ opcodeRows ∧ (Fields.ofWord (encode i)).wellFormed = true

/-- The statement from its one part that depends on the operands. -/
theorem of_and {i : Instr} (h : encode i &&& i.row.mask = i.row.value) (hm : i.row ∈ opcodeRows) : Statement i :=
  ⟨by simp [OpcodeRow.selects, h], hm, ofWord_wellFormed _⟩

theorem op00E0 : Statement (.op00E0) :=
  of_and (by decide) (by simp [Instr.row, opcodeRows])

theorem op00EE : Statement (.op00EE) :=
  of_and (by decide) (by simp [Instr.row, opcodeRows])

theorem op1NNN (nnn : BitVec 12) : Statement (.op1NNN nnn) :=
  of_and ((packNNN_and _ _).trans rfl) (by simp [Instr.row, opcodeRows])

theorem op2NNN (nnn : BitVec 12) : Statement (.op2NNN nnn) :=
  of_and ((packNNN_and _ _).trans rfl) (by simp [Instr.row, opcodeRows])

theorem op3XNN (x : Nibble) (nn : Byte) : Statement (.op3XNN x nn) :=
  of_and ((packXNN_and_op _ _ _).trans rfl) (by simp [Instr.row, opcodeRows])

theorem op4XNN (x : Nibble) (nn : Byte) : Statement (.op4XNN x nn) :=
  of_and ((packXNN_and_op _ _ _).trans rfl) (by simp [Instr.row, opcodeRows])

theorem op5XY0 (x y : Nibble) : Statement (.op5XY0 x y) :=
  of_and ((packXYN_and_sub _ _ _ _).trans rfl) (by simp [Instr.row, opcodeRows])

theorem op6XNN (x : Nibble) (nn : Byte) : Statement (.op6XNN x nn) :=
  of_and ((packXNN_and_op _ _ _).trans rfl) (by simp [Instr.row, opcodeRows])

theorem op7XNN (x : Nibble) (nn : Byte) : Statement (.op7XNN x nn) :=
  of_and ((packXNN_and_op _ _ _).trans rfl) (by simp [Instr.row, opcodeRows])

theorem op8XY0 (x y : Nibble) : Statement (.op8XY0 x y) :=
  of_and ((packXYN_and_sub _ _ _ _).trans rfl) (by simp [Instr.row, opcodeRows])

theorem op8XY1 (x y : Nibble) : Statement (.op8XY1 x y) :=
  of_and ((packXYN_and_sub _ _ _ _).trans rfl) (by simp [Instr.row, opcodeRows])

theorem op8XY2 (x y : Nibble) : Statement (.op8XY2 x y) :=
  of_and ((packXYN_and_sub _ _ _ _).trans rfl) (by simp [Instr.row, opcodeRows])

theorem op8XY3 (x y : Nibble) : Statement (.op8XY3 x y) :=
  of_and ((packXYN_and_sub _ _ _ _).trans rfl) (by simp [Instr.row, opcodeRows])

theorem op8XY4 (x y : Nibble) : Statement (.op8XY4 x y) :=
  of_and ((packXYN_and_sub _ _ _ _).trans rfl) (by simp [Instr.row, opcodeRows])

theorem op8XY5 (x y : Nibble) : Statement (.op8XY5 x y) :=
  of_and ((packXYN_and_sub _ _ _ _).trans rfl) (by simp [Instr.row, opcodeRows])

theorem op8XY6 (x y : Nibble) : Statement (.op8XY6 x y) :=
  of_and ((packXYN_and_sub _ _ _ _).trans rfl) (by simp [Instr.row, opcodeRows])

theorem op8XY7 (x y : Nibble) : Statement (.op8XY7 x y) :=
  of_and ((packXYN_and_sub _ _ _ _).trans rfl) (by simp [Instr.row, opcodeRows])

theorem op8XYE (x y : Nibble) : Statement (.op8XYE x y) :=
  of_and ((packXYN_and_sub _ _ _ _).trans rfl) (by simp [Instr.row, opcodeRows])

theorem op9XY0 (x y : Nibble) : Statement (.op9XY0 x y) :=
  of_and ((packXYN_and_sub _ _ _ _).trans rfl) (by simp [Instr.row, opcodeRows])

theorem opANNN (nnn : BitVec 12) : Statement (.opANNN nnn) :=
  of_and ((packNNN_and _ _).trans rfl) (by simp [Instr.row, opcodeRows])

theorem opBNNN (nnn : BitVec 12) : Statement (.opBNNN nnn) :=
  of_and ((packNNN_and _ _).trans rfl) (by simp [Instr.row, opcodeRows])

theorem opCXNN (x : Nibble) (nn : Byte) : Statement (.opCXNN x nn) :=
  of_and ((packXNN_and_op _ _ _).trans rfl) (by simp [Instr.row, opcodeRows])

theorem opDXYN (x y n : Nibble) : Statement (.opDXYN x y n) :=
  of_and ((packXYN_and_op _ _ _ _).trans rfl) (by simp [Instr.row, opcodeRows])

theorem opEX9E (x : Nibble) : Statement (.opEX9E x) :=
  of_and ((packXNN_and_sub _ _ _).trans rfl) (by simp [Instr.row, opcodeRows])

theorem opEXA1 (x : Nibble) : Statement (.opEXA1 x) :=
  of_and ((packXNN_and_sub _ _ _).trans rfl) (by simp [Instr.row, opcodeRows])

theorem opFX07 (x : Nibble) : Statement (.opFX07 x) :=
  of_and ((packXNN_and_sub _ _ _).trans rfl) (by simp [Instr.row, opcodeRows])

theorem opFX0A (x : Nibble) : Statement (.opFX0A x) :=
  of_and ((packXNN_and_sub _ _ _).trans rfl) (by simp [Instr.row, opcodeRows])

theorem opFX15 (x : Nibble) : Statement (.opFX15 x) :=
  of_and ((packXNN_and_sub _ _ _).trans rfl) (by simp [Instr.row, opcodeRows])

theorem opFX18 (x : Nibble) : Statement (.opFX18 x) :=
  of_and ((packXNN_and_sub _ _ _).trans rfl) (by simp [Instr.row, opcodeRows])

theorem opFX1E (x : Nibble) : Statement (.opFX1E x) :=
  of_and ((packXNN_and_sub _ _ _).trans rfl) (by simp [Instr.row, opcodeRows])

theorem opFX29 (x : Nibble) : Statement (.opFX29 x) :=
  of_and ((packXNN_and_sub _ _ _).trans rfl) (by simp [Instr.row, opcodeRows])

theorem opFX33 (x : Nibble) : Statement (.opFX33 x) :=
  of_and ((packXNN_and_sub _ _ _).trans rfl) (by simp [Instr.row, opcodeRows])

theorem opFX55 (x : Nibble) : Statement (.opFX55 x) :=
  of_and ((packXNN_and_sub _ _ _).trans rfl) (by simp [Instr.row, opcodeRows])

theorem opFX65 (x : Nibble) : Statement (.opFX65 x) :=
  of_and ((packXNN_and_sub _ _ _).trans rfl) (by simp [Instr.row, opcodeRows])

end Laws.RowSelect

end Sys2Proof
end

