-- ==== Sys2Proof/Laws/Step.lean ====
section
/-! SUPPORT. Laws/Step.lean: what a step, an instruction tick and a decoded word can do, said once, so that proofs cite these and
do not unfold the step. -/

namespace Sys2Proof.Machine

namespace State

variable (s : State)

/-! ## The step and the waiting events (log 1) -/

/-- With no event waiting a step is an instruction tick. -/
theorem step_of_nil (h : s.pending = []) : step s = s.instrTick := by
  simp only [step, nextEvent, takeEvent, h]; rfl

/-- With events waiting a step applies the oldest and takes it off the list. -/
theorem step_of_cons {e : Event} {rest : List Event} (h : s.pending = e :: rest) :
    step s = (s.setPending rest).applyEvent e := by
  simp only [step, nextEvent, takeEvent, h]

/-- Everything a step can be. -/
theorem step_cases {t : State} (h : step s = .next t) :
    (s.pending = [] ∧ s.instrTick = .next t) ∨
    ∃ e rest, s.pending = e :: rest ∧ (s.setPending rest).applyEvent e = .next t := by
  cases hp : s.pending with
  | nil => exact .inl ⟨rfl, by rw [← s.step_of_nil hp]; exact h⟩
  | cons e rest => exact .inr ⟨e, rest, rfl, by rw [← s.step_of_cons hp]; exact h⟩

/-! ## The instruction tick (R120 to R124) -/

theorem enabled_iff : s.enabled = true ↔ s.runState = .running ∧ s.paused = false := by
  simp [enabled]

theorem fetchable_iff : s.fetchable = true ↔ s.pc.toNat ≤ 0xFFE := by simp [fetchable]

theorem instrTick_of_not_enabled (h : s.enabled = false) : s.instrTick = .next s := by simp [instrTick, h]

theorem instrTick_of_enabled (h : s.enabled = true) : s.instrTick = s.cycle := by simp [instrTick, h]

theorem cycle_of_fetchable (h : s.fetchable = true) : s.cycle = s.decodeExecute s.fetchWord := by simp [cycle, h]

theorem cycle_of_not_fetchable (h : s.fetchable = false) :
    s.cycle = .next (s.takeFault .pcOutOfBounds s.pc none none) := by simp [cycle, h]

theorem decodeExecute_of_ok {w : Word} {i : Instr} (h : decodeWord w = .ok i) :
    s.decodeExecute w = exec i s.advancePc := by simp [decodeExecute, h]

theorem decodeExecute_of_error {w : Word} {e : DecodeError} (h : decodeWord w = .error e) :
    s.decodeExecute w = .next (s.takeFault .unknownOpcode s.pc (some w) none) := by simp [decodeExecute, h]

/-- Everything an instruction tick can be: nothing, a fetch fault, a decode fault, or an instruction's meaning. -/
theorem instrTick_cases {r : Result} (h : s.instrTick = r) :
    (s.enabled = false ∧ r = .next s) ∨
    (s.enabled = true ∧ s.fetchable = false ∧ r = .next (s.takeFault .pcOutOfBounds s.pc none none)) ∨
    (s.enabled = true ∧ s.fetchable = true ∧
      r = .next (s.takeFault .unknownOpcode s.pc (some s.fetchWord) none)) ∨
    ∃ i, s.enabled = true ∧ s.fetchable = true ∧ decodeWord s.fetchWord = .ok i ∧ r = exec i s.advancePc := by
  subst h
  cases he : s.enabled with
  | false => exact .inl ⟨rfl, s.instrTick_of_not_enabled he⟩
  | true =>
    rw [s.instrTick_of_enabled he]
    cases hf : s.fetchable with
    | false => exact .inr (.inl ⟨rfl, rfl, s.cycle_of_not_fetchable hf⟩)
    | true =>
      rw [s.cycle_of_fetchable hf]
      cases hd : decodeWord s.fetchWord with
      | error e => exact .inr (.inr (.inl ⟨rfl, rfl, s.decodeExecute_of_error hd⟩))
      | ok i => exact .inr (.inr (.inr ⟨i, rfl, rfl, rfl, s.decodeExecute_of_ok hd⟩))

/-- A raised fault is a next state. -/
@[simp] theorem raise_eq (k : FaultKind) (i : Instr) (n : Option Nat) :
    s.raise k i n = .next (s.takeFault k (s.pc - 2) (some (encode i)) n) := rfl

end State

end Sys2Proof.Machine
end

