-- ==== Sys2Proof/Tests/Slice0.lean ====
section
/-! SUPPORT. Slice0.lean: the model's own tests. Expected values are those of the spec: the vectors T1 to T152 and E1 to E22 of
`95_test_vectors.md`, named at each test, and the encodings of R96. After the tests, for every statement with hypotheses, a witness
that meets them. -/

namespace Sys2Proof.Tests

open Sys2Proof Sys2Proof.Machine

/-! ## The test bench -/

/-- The launch state (R304) with no program: default configuration, all keys up, memory above the font zero. -/
def launch : State := { State.reset with pc := 0x200, runState := .running }

/-- Registers set directly ("a test-bench shortcut"). -/
def regs (rs : List (Nibble × Byte)) (s : State) : State := rs.foldl (fun t r => t.setV r.1 r.2) s

/-- Memory bytes set directly. -/
def poke (bs : List (Nat × Byte)) (s : State) : State := bs.foldl (fun t b => t.writeByte b.1 b.2) s

/-- Pixels turned on directly. -/
def light (ps : List (Fin 64 × Fin 32)) (s : State) : State := ps.foldl (fun t p => t.setFb (t.fb.toggle p.1 p.2)) s

/-- The given keys down. -/
def down (ks : List Nibble) : Keys := Vector.ofFn (fun k => decide (k ∈ ks))

/-- The policy `fatal`. -/
def fatal (s : State) : State := { s with config := { s.config with boundsPolicy := .fatal } }

/-- One `InstrTick` on the word `w` at the fetch point. -/
def tick (w : Nat) (s : State) : Result := step (s.withFetchWord 16 w)

/-- A view of the next state, if there is one. -/
def see {α : Type} (f : State → α) : Result → Option α
  | .next t => some (f t)
  | .fault _ => none
  | .refused _ => none

/-- The on-pixels of the first rows and columns and of the last ones, enough for the vectors. -/
def lit (s : State) : List (Nat × Nat) :=
  [0, 1, 2, 3, 4, 5, 6, 7, 11, 62, 63].flatMap (fun x =>
    ([0, 1, 2, 3, 5, 31].filter (fun y => s.fb.pixel (column x) (row y))).map (fun y => (x, y)))

/-! ## Well-formedness: an ill-formed term for each check -/

/-- `0x22FC` with a wrong `NN`: refused by the check `NN = (Y << 4) | N`. -/
theorem test_wf_byte_refused : Fields.byteAgrees ⟨0x2, 0x2, 0xF, 0xC, 0xFB, 0x2FB⟩ = false := by decide

/-- `0x22FC` with a wrong `NNN`: refused by the check `NNN = (X << 8) | NN`. -/
theorem test_wf_addr_refused : Fields.addrAgrees ⟨0x2, 0x2, 0xF, 0xC, 0xFC, 0x3FC⟩ = false := by decide

/-- Either fault is refused by the whole check, and the record of S1 passes it. -/
theorem test_wf_fields : Fields.wellFormed ⟨0x2, 0x2, 0xF, 0xC, 0xFB, 0x2FB⟩ = false ∧
    Fields.wellFormed ⟨0x2, 0x2, 0xF, 0xC, 0xFC, 0x3FC⟩ = false ∧
    Fields.wellFormed ⟨0x2, 0x2, 0xF, 0xC, 0xFC, 0x2FC⟩ = true := by decide

/-- `INSTR_HZ = 0` is no positive rate (R6). -/
theorem test_wf_config : Config.wellFormed { Config.default with instrHz := 0 } = false ∧
    Config.wellFormed Config.default = true := by decide

/-- Memory out of its canonical form is refused: not rising, outside memory, or equal to what the address reads as unlisted. -/
theorem test_wf_memory : Memory.wf defaultFont [(0x301, 1), (0x300, 1)] = false ∧
    Memory.wf defaultFont [(0x1000, 1)] = false ∧ Memory.wf defaultFont [(0x000, 0xF0)] = false ∧
    Memory.wf defaultFont [(0x300, 0)] = false ∧ Memory.wf defaultFont [(0x000, 0x33), (0x300, 1)] = true := by decide

/-! ## Decoding: words written out bit by bit from R91, R93 and R96 -/

theorem test_decode_flow :
    decodeWord 0b0000_0000_1110_1110#16 = .ok .op00EE ∧
    decodeWord 0b0001_1010_1011_1100#16 = .ok (.op1NNN 0xABC) ∧
    decodeWord 0b0010_0010_1111_1100#16 = .ok (.op2NNN 0x2FC) ∧
    decodeWord 0b0011_1010_0100_0010#16 = .ok (.op3XNN 10 0x42) ∧
    decodeWord 0b0100_1010_0100_0010#16 = .ok (.op4XNN 10 0x42) ∧
    decodeWord 0b0101_1010_1011_0000#16 = .ok (.op5XY0 10 11) ∧
    decodeWord 0b1001_1010_1011_0000#16 = .ok (.op9XY0 10 11) ∧
    decodeWord 0b1011_0011_0000_0001#16 = .ok (.opBNNN 0x301) := by decide

theorem test_decode_alu :
    decodeWord 0b0110_1010_0101_0101#16 = .ok (.op6XNN 10 0x55) ∧
    decodeWord 0b0111_0001_1111_1111#16 = .ok (.op7XNN 1 0xFF) ∧
    decodeWord 0b1000_0001_0010_0000#16 = .ok (.op8XY0 1 2) ∧
    decodeWord 0b1000_0001_0010_0001#16 = .ok (.op8XY1 1 2) ∧
    decodeWord 0b1000_0001_0010_0010#16 = .ok (.op8XY2 1 2) ∧
    decodeWord 0b1000_0001_0010_0011#16 = .ok (.op8XY3 1 2) ∧
    decodeWord 0b1000_0001_0010_0100#16 = .ok (.op8XY4 1 2) ∧
    decodeWord 0b1000_0001_0010_0101#16 = .ok (.op8XY5 1 2) ∧
    decodeWord 0b1000_0001_0010_0110#16 = .ok (.op8XY6 1 2) ∧
    decodeWord 0b1000_0001_0010_0111#16 = .ok (.op8XY7 1 2) ∧
    decodeWord 0b1000_0001_0010_1110#16 = .ok (.op8XYE 1 2) ∧
    decodeWord 0b1100_0001_0000_1111#16 = .ok (.opCXNN 1 0x0F) := by decide

theorem test_decode_index_memory :
    decodeWord 0b1010_1111_1111_1110#16 = .ok (.opANNN 0xFFE) ∧
    decodeWord 0b1111_0001_0001_1110#16 = .ok (.opFX1E 1) ∧
    decodeWord 0b1111_0001_0010_1001#16 = .ok (.opFX29 1) ∧
    decodeWord 0b1111_0001_0011_0011#16 = .ok (.opFX33 1) ∧
    decodeWord 0b1111_0010_0101_0101#16 = .ok (.opFX55 2) ∧
    decodeWord 0b1111_0010_0110_0101#16 = .ok (.opFX65 2) := by decide

theorem test_decode_display_keypad_timer :
    decodeWord 0b0000_0000_1110_0000#16 = .ok .op00E0 ∧
    decodeWord 0b1101_0001_0010_0011#16 = .ok (.opDXYN 1 2 3) ∧
    decodeWord 0b1110_0010_1001_1110#16 = .ok (.opEX9E 2) ∧
    decodeWord 0b1110_0010_1010_0001#16 = .ok (.opEXA1 2) ∧
    decodeWord 0b1111_0001_0000_0111#16 = .ok (.opFX07 1) ∧
    decodeWord 0b1111_0010_0000_1010#16 = .ok (.opFX0A 2) ∧
    decodeWord 0b1111_0001_0001_0101#16 = .ok (.opFX15 1) ∧
    decodeWord 0b1111_0001_0001_1000#16 = .ok (.opFX18 1) := by decide

/-- The unknown words of vectors T4 to T16. -/
theorem test_decode_unknown :
    ∀ w ∈ [0x0000, 0x00E1, 0x01E0, 0x0300, 0x5121, 0x9121, 0x8128, 0x812F, 0xE19F, 0xE1A0, 0xF100, 0xF175, 0xFFFF],
      decodeTableWord 16 w = none := by decide

/-- Fewer than two bytes are no instruction; the bytes after the first two are the rest. -/
theorem test_decode_bytes : decodeBytes [0x12] = .error .truncated ∧
    decodeBytes [0x60, 0x05, 0x12] = .ok (.op6XNN 0 0x05, [0x12]) := by decide

/-! ## The bench and fetch -/

/-- The launch state is `Reset` then a load (R304). -/
theorem test_launch : (State.reset.loadRom []).1 = launch := rfl

/-- T1: last fetchable address. -/
theorem test_fetch_last : see (fun t => (t.getV 10, t.pc)) (tick 0x6A55 { launch with pc := 0xFFE }) = some (0x55, 0x1000) := by
  decide

/-- T3: no word is fetched at `0xFFF`. -/
theorem test_fetch_out_of_bounds : see (fun t => (t.pc, t.runState)) (step { launch with pc := 0xFFF }) =
    some (0xFFF, .faulted ⟨.pcOutOfBounds, 0xFFF, none, none⟩) := by decide

/-- T4: the all-zero word is not a no-op. -/
theorem test_zero_word_faults : see (fun t => (t.pc, t.runState)) (step launch) =
    some (0x200, .faulted ⟨.unknownOpcode, 0x200, some 0, none⟩) := by decide

/-- T18: an odd `pc`. -/
theorem test_odd_pc : see (fun t => (t.getV 10, t.pc)) (tick 0x6A2B { launch with pc := 0x203 }) = some (0x2B, 0x205) := by decide

/-! ## Control flow -/

/-- T22: the sixteenth entry is popped. -/
theorem test_00EE : see (fun t => (t.pc, t.SP)) (tick 0x00EE { launch with SP := 16, stack := launch.stack.set 15 0x346 }) =
    some (0x346, 15) := by decide

/-- T21: an empty stack. -/
theorem test_00EE_underflow : see (fun t => (t.pc, t.runState)) (tick 0x00EE launch) =
    some (0x200, .faulted ⟨.stackUnderflow, 0x200, some 0x00EE, none⟩) := by decide

/-- T24. -/
theorem test_1NNN : see State.pc (tick 0x1ABC launch) = some 0xABC := by decide

/-- T30: the return address `0x1000` is stored unreduced. -/
theorem test_2NNN : see (fun t => (t.pc, t.SP, t.stack[0])) (tick 0x2300 { launch with pc := 0xFFE }) =
    some (0x300, 1, 0x1000) := by decide

/-- T29: the seventeenth call. -/
theorem test_2NNN_overflow : see (fun t => (t.pc, t.SP, t.runState)) (tick 0x2ABC { launch with SP := 16 }) =
    some (0x200, 16, .faulted ⟨.stackOverflow, 0x200, some 0x2ABC, none⟩) := by decide

/-- T31, T32, and T41 at the top of memory. -/
theorem test_3XNN : see State.pc (tick 0x3A42 (regs [(10, 0x42)] launch)) = some 0x204 ∧
    see State.pc (tick 0x3A42 (regs [(10, 0x43)] launch)) = some 0x202 ∧
    see State.pc (tick 0x3000 { launch with pc := 0xFFE }) = some 0x1002 := by decide

/-- T33, T34. -/
theorem test_4XNN : see State.pc (tick 0x4A42 (regs [(10, 0x42)] launch)) = some 0x202 ∧
    see State.pc (tick 0x4A42 (regs [(10, 0x43)] launch)) = some 0x204 := by decide

/-- T35, T36. -/
theorem test_5XY0 : see State.pc (tick 0x5AB0 (regs [(10, 9), (11, 9)] launch)) = some 0x204 ∧
    see State.pc (tick 0x5AB0 (regs [(10, 9), (11, 8)] launch)) = some 0x202 := by decide

/-- T38, T39. -/
theorem test_9XY0 : see State.pc (tick 0x9AB0 (regs [(10, 9), (11, 8)] launch)) = some 0x204 ∧
    see State.pc (tick 0x9AB0 (regs [(10, 9), (11, 9)] launch)) = some 0x202 := by decide

/-- T43, T44: only `V[0]`, and no reduction. -/
theorem test_BNNN : see State.pc (tick 0xB300 (regs [(1, 0xFF)] launch)) = some 0x300 ∧
    see State.pc (tick 0xBFFF (regs [(0, 0xFF)] launch)) = some 0x10FE := by decide

/-! ## Registers and arithmetic -/

/-- T50. -/
theorem test_6XNN : see (fun t => (t.getV 15, t.pc)) (tick 0x6FAB launch) = some (0xAB, 0x202) := by decide

/-- T51. -/
theorem test_7XNN : see (fun t => (t.getV 1, t.getV 15)) (tick 0x7101 (regs [(1, 0xFF), (15, 0x77)] launch)) =
    some (0, 0x77) := by decide

/-- T54. -/
theorem test_8XY0 : see (fun t => (t.getV 1, t.getV 2)) (tick 0x8120 (regs [(1, 0x11), (2, 0x22)] launch)) =
    some (0x22, 0x22) := by decide

/-- T55. -/
theorem test_8XY1 : see (fun t => (t.getV 1, t.getV 15)) (tick 0x8121 (regs [(1, 0x0F), (2, 0xF0), (15, 0x77)] launch)) =
    some (0xFF, 0x77) := by decide

/-- T56. -/
theorem test_8XY2 : see (fun t => (t.getV 1, t.getV 15)) (tick 0x8122 (regs [(1, 0x3C), (2, 0x0F), (15, 0x77)] launch)) =
    some (0x0C, 0x77) := by decide

/-- T57. -/
theorem test_8XY3 : see (fun t => (t.getV 1, t.getV 15)) (tick 0x8123 (regs [(1, 0x3C), (2, 0x0F), (15, 0x77)] launch)) =
    some (0x33, 0x77) := by decide

/-- T59, T60 (the source's own example, S2). -/
theorem test_8XY4 : see (fun t => (t.getV 1, t.getV 15)) (tick 0x8124 (regs [(1, 0xFF), (2, 1)] launch)) = some (0, 1) ∧
    see (fun t => (t.getV 1, t.getV 15)) (tick 0x8124 (regs [(1, 1), (2, 1), (15, 1)] launch)) = some (2, 0) := by decide

/-- T63, T65: `VF` as destination and as addend. -/
theorem test_8XY4_VF : see (fun t => t.getV 15) (tick 0x8F14 (regs [(15, 0xFF), (1, 1)] launch)) = some 1 ∧
    see (fun t => (t.getV 1, t.getV 15)) (tick 0x81F4 (regs [(1, 0xF0), (15, 0x20)] launch)) = some (0x10, 1) := by decide

/-- T66 (S3), T68. -/
theorem test_8XY5 : see (fun t => (t.getV 1, t.getV 15)) (tick 0x8125 (regs [(1, 1), (2, 2)] launch)) = some (0xFF, 0) ∧
    see (fun t => (t.getV 1, t.getV 15)) (tick 0x8125 (regs [(1, 5), (2, 5)] launch)) = some (0, 1) := by decide

/-- T70, T71. -/
theorem test_8XY5_VF : see (fun t => t.getV 15) (tick 0x8F15 (regs [(15, 5), (1, 3)] launch)) = some 1 ∧
    see (fun t => (t.getV 1, t.getV 15)) (tick 0x81F5 (regs [(1, 3), (15, 5)] launch)) = some (0xFE, 0) := by decide

/-- T72, T75. -/
theorem test_8XY6 : see (fun t => (t.getV 1, t.getV 15)) (tick 0x8126 (regs [(1, 5), (2, 0xFF)] launch)) = some (2, 1) ∧
    see (fun t => t.getV 15) (tick 0x8F06 (regs [(15, 3)] launch)) = some 0 := by decide

/-- T76, T77. -/
theorem test_8XY7 : see (fun t => (t.getV 1, t.getV 15)) (tick 0x8127 (regs [(1, 1), (2, 3)] launch)) = some (2, 1) ∧
    see (fun t => (t.getV 1, t.getV 15)) (tick 0x8127 (regs [(1, 3), (2, 1)] launch)) = some (0xFE, 0) := by decide

/-- T80, T82, T83. -/
theorem test_8XYE : see (fun t => (t.getV 1, t.getV 15)) (tick 0x812E (regs [(1, 0x81), (2, 0xFF)] launch)) = some (2, 1) ∧
    see (fun t => t.getV 15) (tick 0x8F0E (regs [(15, 0x81)] launch)) = some 2 ∧
    see (fun t => t.getV 15) (tick 0x8F0E (regs [(15, 0x7F)] launch)) = some 0 := by decide

/-- T84: the byte drawn, whatever it is, masked; and the generator moved on. -/
theorem test_CXNN : see (fun t => (t.getV 1, t.rng)) (tick 0xC10F launch) =
    some ((Config.rngNext launch.rng).1 &&& 0x0F, (Config.rngNext launch.rng).2) := rfl

/-! ## Address register and memory -/

/-- T90. -/
theorem test_ANNN : see State.I (tick 0xAFFF launch) = some 0xFFF := by decide

/-- T91, T92. -/
theorem test_FX1E : see (fun t => (t.I, t.getV 15)) (tick 0xF11E (regs [(1, 1), (15, 0x77)] { launch with I := 0xFFF })) =
      some (0x1000, 0x77) ∧
    see State.I (tick 0xF11E (regs [(1, 2)] { launch with I := 0xFFFF })) = some 1 := by decide

/-- T95, T96. -/
theorem test_FX29 : see State.I (tick 0xF129 (regs [(1, 0x1A)] launch)) = some 0x32 ∧
    see State.I (tick 0xF129 (regs [(1, 0xFF)] launch)) = some 0x4B := by decide

/-- T101: the third digit wraps to `0x000`. -/
theorem test_FX33 : see (fun t => (t.readByte 0xFFE, t.readByte 0xFFF, t.readByte 0x000, t.I))
    (tick 0xF133 (regs [(1, 0x7B)] { launch with I := 0xFFE })) = some (1, 2, 3, 0xFFE) := by decide

/-- T102: under `fatal` nothing is written. -/
theorem test_FX33_fatal : see (fun t => (t.readByte 0xFFE, t.readByte 0x000, t.pc, t.runState))
    (tick 0xF133 (fatal (regs [(1, 0x7B)] { launch with I := 0xFFE }))) =
      some (0, 0xF0, 0x200, .faulted ⟨.memoryOutOfBounds, 0x200, some 0xF133, some 0x1000⟩) := by decide

/-- T105: inclusive of `V[2]`, not `V[3]`. -/
theorem test_FX55 : see (fun t => (t.readByte 0x300, t.readByte 0x301, t.readByte 0x302, t.readByte 0x303))
    (tick 0xF255 (regs [(0, 0x11), (1, 0x22), (2, 0x33), (3, 0x44)] { launch with I := 0x300 })) =
      some (0x11, 0x22, 0x33, 0) := by decide

/-- T108: under `fatal` the last byte at `0xFFF` is in range. -/
theorem test_FX55_fatal : see (fun t => (t.readByte 0xFFD, t.readByte 0xFFF, t.runState))
    (tick 0xF255 (fatal (regs [(0, 0x11), (1, 0x22), (2, 0x33)] { launch with I := 0xFFD }))) =
      some (0x11, 0x33, .running) := by decide

/-- T109. -/
theorem test_FX65 : see (fun t => (t.getV 0, t.getV 1, t.getV 2, t.getV 3, t.I))
    (tick 0xF265 (regs [(3, 0x99)] (poke [(0x300, 0xDE), (0x301, 0xAD), (0x302, 0xBE), (0x303, 0xEF)] { launch with I := 0x300 }))) =
      some (0xDE, 0xAD, 0xBE, 0x99, 0x300) := by decide

/-- T111: the second byte is the first font byte. -/
theorem test_FX65_wraps : see (fun t => (t.getV 0, t.getV 1)) (tick 0xF165 (poke [(0xFFF, 0x5A)] { launch with I := 0xFFF })) =
    some (0x5A, 0xF0) := by decide

/-! ## Display -/

/-- T120. -/
theorem test_00E0 : see (fun t => (lit t, t.getV 15)) (tick 0x00E0 (regs [(15, 1)] (light [(0, 0), (63, 31)] launch))) =
    some ([], 1) := by decide

/-- T124: every pixel wraps in both axes. -/
theorem test_DXYN_wraps : see (fun t => (lit t, t.getV 15))
    (tick 0xD122 (regs [(1, 0x3E), (2, 0x1F)] (poke [(0x300, 0xE0), (0x301, 0x80)] { launch with I := 0x300 }))) =
      some ([(0, 31), (62, 0), (62, 31), (63, 31)], 0) := by decide

/-- T123: partial overlap. -/
theorem test_DXYN_collides : see (fun t => (lit t, t.getV 15))
    (tick 0xD121 (light [(1, 0), (5, 5)] (poke [(0x300, 0xC0)] { launch with I := 0x300 }))) =
      some ([(0, 0), (5, 5)], 1) := by decide

/-! ## Keypad and timers -/

/-- T140, T141. -/
theorem test_EX9E : see State.pc (tick 0xE29E (regs [(2, 0x05)] { launch with key := down [5] })) = some 0x204 ∧
    see State.pc (tick 0xE29E (regs [(2, 0x05)] { launch with key := down [4] })) = some 0x202 := by decide

/-- T144, T145. -/
theorem test_EXA1 : see State.pc (tick 0xE2A1 (regs [(2, 0x05)] launch)) = some 0x204 ∧
    see State.pc (tick 0xE2A1 (regs [(2, 0xF5)] { launch with key := down [5] })) = some 0x202 := by decide

/-- T146. -/
theorem test_FX07 : see (fun t => t.getV 1) (tick 0xF107 { launch with DT := 0x2A }) = some 0x2A := by decide

/-- T151: a held key does not satisfy the wait. -/
theorem test_FX0A : see (fun t => (t.pc, t.runState, t.getV 2)) (tick 0xF20A { launch with key := down [4] }) =
    some (0x202, .waitKey 2, 0) := by decide

/-- T152. -/
theorem test_FX15 : see State.DT (tick 0xFF15 (regs [(15, 3)] launch)) = some 3 := by decide

/-- T150. -/
theorem test_FX18 : see (fun t => (t.ST, t.toneActive)) (tick 0xF118 (regs [(1, 0x1E)] launch)) = some (0x1E, true) := by decide

/-! ## Events -/

/-- E1, E2. -/
theorem test_timerTick :
    see (fun t => (t.DT, t.ST, t.toneActive)) (State.applyEvent { launch with DT := 3, ST := 1 } .timerTick) =
      some (2, 0, false) ∧
    see (fun t => (t.DT, t.ST)) (launch.applyEvent .timerTick) = some (0, 0) := by decide

/-- E9: the lowest of the newly down keys. -/
theorem test_keyUpdate_resolves : see (fun t => (t.getV 2, t.runState, t.key == down [3, 9]))
    (State.applyEvent { launch with runState := .waitKey 2 } (.keyUpdate (down [3, 9]))) = some (3, .running, true) := by decide

/-- E11: only key 1 is newly down; E10: a held key is no transition. -/
theorem test_keyUpdate_held : see (fun t => (t.getV 2, t.runState))
      (State.applyEvent { launch with runState := .waitKey 2, key := down [4] } (.keyUpdate (down [1, 4]))) = some (1, .running) ∧
    see (fun t => (t.getV 2, t.runState))
      (State.applyEvent { launch with runState := .waitKey 2, key := down [4] } (.keyUpdate (down [4]))) =
        some (0, .waitKey 2) := by decide

/-- E7: while paused the instruction clock does nothing; a waiting event is applied first. -/
theorem test_paused : see (fun t => (t.pc, t.getV 0))
    (step { launch with paused := true, mem := [(0x200, 0x60), (0x201, 0x05)] }) = some (0x200, 0) ∧
    see (fun t => (t.paused, t.pc, t.pending)) (step { launch with paused := true, pending := [.resume, .timerTick] }) =
      some (false, 0x200, [.timerTick]) := by decide

/-- E16, first event: an empty image is accepted; E18: a load does not restore the font, `Reset` does. -/
theorem test_load_and_reset :
    see (fun t => (t.readByte 0x000, t.pc, t.runState)) (State.applyEvent (poke [(0, 3), (0x300, 7)] State.reset) (.loadRom [])) =
      some (3, 0x200, .running) ∧
    see (fun t => (t.readByte 0x000, t.pc, t.runState)) (State.applyEvent (poke [(0, 3)] launch) .reset) =
      some (0xF0, 0, .awaitingRom) := by decide

/-- E22: keys 0 and F down show as `0x8001`. -/
theorem test_keyPort : State.keyPort { launch with key := down [0, 15] } = 0x8001 := by decide

/-- R250: the codes. -/
theorem test_fault_codes : [FaultKind.romTooLarge, .stackOverflow, .stackUnderflow, .memoryOutOfBounds, .unknownOpcode,
    .pcOutOfBounds].map FaultKind.code = [1, 2, 3, 4, 5, 6] := by decide

/-! ## Witnesses: for each statement with hypotheses, a concrete input that meets them, clause by clause at its boundaries -/

/-- The word of vector T72 decodes. -/
theorem witness_EncodeOfDecodeIsTheWord : decodeWord 0x8126 = .ok (.op8XY6 1 2) := by decide

theorem witness_WordDecodesExactlyWhenOneRowSelectsIt : decodeWord 0xFF65 = .ok (.opFX65 15) ∧
    (∃ r ∈ opcodeRows, r.selects 0xFF65 = true) ∧ ¬∃ r ∈ opcodeRows, r.selects 0xFF66 = true := by decide

/-- Both sides at the edges of the rows of R98: the least unknown word of each primary nibble, and the words around it. -/
theorem witness_UnknownWordsAreExactlyTheListedOnes :
    (∀ w ∈ [0x0000, 0x5001, 0x8008, 0x9001, 0xE000, 0xF000, 0xFFFF], decodeTableWord 16 w = none) ∧
    ∀ w ∈ [0x00E0, 0x00EE, 0x5000, 0x8007, 0x800E, 0x9000, 0xE09E, 0xE0A1, 0xF007, 0xFF65], decodeTableWord 16 w ≠ none := by
  decide

/-- A decodable word at the last fetchable address, with no event waiting and with an `InstrTick` waiting. -/
theorem witness_StepRunsTheDecodedInstruction : ∀ es ∈ [[], [Event.instrTick, .timerTick]],
    let s : State := { poke [(0xFFE, 0x6A), (0xFFF, 0x55)] launch with pc := 0xFFE, pending := es }
    s.runState = .running ∧ s.paused = false ∧ s.pc.toNat ≤ 0xFFE ∧
      decodeBytes [s.readByte s.pc.toNat, s.readByte (s.pc.toNat + 1)] = .ok (.op6XNN 10 0x55, []) := by decide

theorem witness_StepAppliesTheOldestWaitingEvent : launch.pending = [] ∧
    State.pending { launch with pending := [.keyUpdate (down [7]), .instrTick] } = .keyUpdate (down [7]) :: [.instrTick] := by
  decide

/-- Each clause: the fetch fault from `0xFFF` on, a decodable and an unknown word at a fetchable `pc`, and each way not to be
enabled. -/
theorem witness_InstrTickRunsOneCycleOnlyWhenEnabled : launch.runState = .running ∧ launch.paused = false ∧
    0xFFE < (State.pc { launch with pc := 0xFFF }).toNat ∧ (State.pc { launch with pc := 0xFFE }).toNat ≤ 0xFFE ∧
    decodeWord (poke [(0x201, 0xE0)] launch).fetchWord = .ok .op00E0 ∧
    decodeWord launch.fetchWord = .error (.unknownOpcode 0) ∧
    State.reset.runState ≠ .running ∧ State.paused { launch with paused := true } = true := by decide

/-- T3 and T4: a `pc` one above the last fetchable one, and the all-zero word. -/
theorem witness_FetchAndDecodeFaultsAreRecorded : launch.runState = .running ∧ launch.paused = false ∧
    0xFFE < (State.pc { launch with pc := 0xFFF }).toNat ∧ launch.pc.toNat ≤ 0xFFE ∧
    ∀ r ∈ opcodeRows, r.selects (launch.readByte launch.pc.toNat ++ launch.readByte (launch.pc.toNat + 1)) = false := by decide

/-- A faulted machine, an event that is no load, and a load one byte too long. -/
theorem witness_FaultedMachineStaysFaulted :
    State.runState { launch with runState := .faulted ⟨.unknownOpcode, 0x200, some 0, none⟩ } =
      .faulted ⟨.unknownOpcode, 0x200, some 0, none⟩ ∧
    Event.timerTick ≠ .reset ∧ (∀ image, Event.timerTick = .loadRom image → 4096 - launch.config.entryPoint.addr < image.length) ∧
    Event.loadRom (List.replicate 3585 0) ≠ .reset ∧
    ∀ image, Event.loadRom (List.replicate 3585 0) = .loadRom image → 4096 - launch.config.entryPoint.addr < image.length :=
  ⟨rfl, nofun, nofun, nofun, fun _ h => by cases h; rw [List.length_replicate]; decide⟩

theorem witness_AddRegistersGivesSumThenCarry : (14 : Nibble) ≠ 15 := by decide

theorem witness_SubtractGivesDifferenceThenNoBorrow : (0 : Nibble) ≠ 15 := by decide

theorem witness_ShiftsWriteFlagThenResult : (14 : Nibble) ≠ 15 ∧ (15 : Nibble) = 15 := by decide

/-- The last target, and a jump to its own address (T25). -/
theorem witness_JumpReplacesPc : (BitVec.ofNat 12 0xFFF) = 0xFFF ∧
    (State.beforeFetch { launch with pc := 0x202 }).pc.toNat = (0x200 : BitVec 12).toNat := by decide

/-- An empty stack, fifteen entries, and a full stack. -/
theorem witness_CallPushesReturnAddress : launch.SP.val < 16 ∧ (State.SP { launch with SP := 15 }).val < 16 ∧
    (State.SP { launch with SP := 16 }).val = 16 := by decide

/-- One entry, a full stack, an entry whose fetch faults (T23), an empty stack. -/
theorem witness_ReturnPopsIntoPc : (State.SP { launch with SP := 1 }).val ≠ 0 ∧ (State.SP { launch with SP := 16 }).val ≠ 0 ∧
    see (fun t => decide (0xFFE < t.pc.toNat)) (exec .op00EE { launch with SP := 1, stack := launch.stack.set 0 0x1000 }) =
      some true ∧ launch.SP.val = 0 := by decide

/-- The clause on a call: the state it leaves, with a dead slot changed since. -/
theorem witness_ReturnPopsIntoPc_after_a_call : ∃ s v : State, s.SP.val ≠ 0 ∧ launch.SP.val < 16 ∧
    exec (.op2NNN 0x300) launch = .next v ∧ s.SP = v.SP ∧ ∀ k < v.SP.val, s.stack[k]? = v.stack[k]? :=
  ⟨{ launch with SP := 1, stack := (launch.stack.set 0 0x200).set 1 0x777, pc := 0x300 }, _, by decide, by decide, rfl, rfl,
    fun k (hk : k < 1) => by obtain rfl : k = 0 := Nat.lt_one_iff.mp hk
                             rfl⟩

/-- T8 and T9: words with a sub-opcode nibble that is not 0. -/
theorem witness_RegisterSkipsTestTheirCondition : (0x5121 : Word).toNat / 0x1000 = 5 ∧ (0x5121 : Word).toNat % 0x10 ≠ 0 ∧
    (0x9121 : Word).toNat / 0x1000 = 9 ∧ (0x9121 : Word).toNat % 0x10 ≠ 0 := by decide

/-- T44: the largest sum. -/
theorem witness_IndexedJumpDoesNotReduceItsSum :
    see (fun t => decide (0xFFE < t.pc.toNat)) (exec (.opBNNN 0xFFF) (regs [(0, 0xFF)] launch)) = some true := by decide

/-- A call at `0x200` of a subroutine at `0x204` that is a return, a timer tick in between. -/
def callBench : State := poke [(0x200, 0x22), (0x201, 0x04), (0x205, 0xEE)] launch

theorem witness_CallAndBalancedReturnComeBack : ∃ t u : State, callBench.runs (.op2NNN 0x204) ∧ callBench.SP.val < 16 ∧
    callBench.instrTick = .next t ∧ BalancedRun t u ∧ u.runs .op00EE :=
  ⟨{ callBench with pc := 0x204, SP := 1, stack := launch.stack.set 0 0x202 }, _,
    ⟨by decide, by decide, by decide⟩, by decide, rfl,
    .event .timerTick nofun nofun rfl (.done _), ⟨by decide, by decide, by decide⟩⟩

/-- A call at `0x200` of a subroutine at `0x204` that loads a register, calls the return at `0x20A`, and returns at `0x208`. -/
def nestedBench : State :=
  poke [(0x200, 0x22), (0x201, 0x04), (0x204, 0x60), (0x205, 0x05), (0x206, 0x22), (0x207, 0x0A), (0x209, 0xEE), (0x20B, 0xEE)]
    launch

/-- In the subroutine of `nestedBench`, at `pc`: before the load, after it, in the inner call, back from it. -/
def nestedAt (pc : Word) (v0 : Byte) (sp : Fin 17) (slot1 : Word) : State :=
  { nestedBench with pc := pc, V := launch.V.set 0 v0, SP := sp, stack := (launch.stack.set 0 0x202).set 1 slot1 }

/-- The other two cases of a balanced run: an instruction, and a call with its return as one stretch. -/
theorem witness_CallAndBalancedReturnComeBack_nested : nestedBench.runs (.op2NNN 0x204) ∧ nestedBench.SP.val < 16 ∧
    nestedBench.instrTick = .next (nestedAt 0x204 0 1 0) ∧
    BalancedRun (nestedAt 0x204 0 1 0) (nestedAt 0x208 5 1 0x208) ∧ (nestedAt 0x208 5 1 0x208).runs .op00EE :=
  ⟨⟨by decide, by decide, by decide⟩, by decide, rfl,
    .instr (t := nestedAt 0x206 5 1 0) (.op6XNN 0 0x05) ⟨by decide, by decide, by decide⟩ nofun nofun rfl
      (.nested (t := nestedAt 0x20A 5 2 0x208) (u := nestedAt 0x20A 5 2 0x208) 0x20A ⟨by decide, by decide, by decide⟩
        (by decide) rfl (.done _) ⟨by decide, by decide, by decide⟩ rfl (.done _)),
    ⟨by decide, by decide, by decide⟩⟩

/-- In range: anywhere under `wrap`, and under `fatal` up to `0xFFD`; out of range under `fatal` from `0xFFE` on. -/
theorem witness_StoreDecimalDigits : State.dataInRange { launch with I := 0xFFFF } 3 ∧
    State.dataInRange (fatal { launch with I := 0xFFD }) 3 ∧
    (fatal { launch with I := 0xFFE }).config.boundsPolicy = .fatal ∧ 0xFFF < (fatal { launch with I := 0xFFE }).I.toNat + 2 :=
  ⟨.inl rfl, .inr (.inr (by decide)), rfl, by decide⟩

/-- Sixteen registers: in range up to `0xFF0`, out of range from `0xFF1` on; both ends of the register range. -/
theorem witness_StoreRegistersInclusive : State.dataInRange { launch with I := 0xFFFF } 16 ∧
    State.dataInRange (fatal { launch with I := 0xFF0 }) ((15 : Nibble).val + 1) ∧ (0 : Nibble) ≤ 15 ∧ (15 : Nibble) ≤ 15 ∧
    (fatal { launch with I := 0xFF1 }).config.boundsPolicy = .fatal ∧
    0xFFF < (fatal { launch with I := 0xFF1 }).I.toNat + (15 : Nibble).val :=
  ⟨.inl rfl, .inr (.inr (by decide)), by decide, by decide, rfl, by decide⟩

/-- As above; and a register inside the range, one above it. -/
theorem witness_LoadRegistersInclusive : State.dataInRange (fatal { launch with I := 0xFFD }) ((2 : Nibble).val + 1) ∧
    (2 : Nibble) ≤ 2 ∧ (2 : Nibble) < 3 ∧
    (fatal { launch with I := 0xFFE }).config.boundsPolicy = .fatal ∧
    0xFFF < (fatal { launch with I := 0xFFE }).I.toNat + (2 : Nibble).val :=
  ⟨.inr (.inr (by decide)), by decide, by decide, rfl, by decide⟩

/-- Under `wrap` at the top of memory and of `I`, where the sum leaves memory; under `fatal` at the last address in range; and the
corner `(c, r)` of each range. -/
theorem witness_DataAddressesAreTakenModuloMemorySize :
    State.dataInRange { launch with I := 0xFFF } 3 ∧ State.dataInRange (fatal { launch with I := 0xFFD }) 3 ∧
    State.dataInRange { launch with I := 0xFFFF } ((15 : Nibble).val + 1) ∧
    State.dataInRange (fatal { launch with I := 0xFF0 }) ((15 : Nibble).val + 1) ∧
    State.dataInRange { launch with I := 0xFFF } (15 : Nibble).val ∧ 14 < (15 : Nibble).val ∧ 7 < 8 ∧
    (6 : Fin 64).val = (((regs [(1, 0xFF)] launch).getV 1).toNat + 7) % 64 ∧
    (13 : Fin 32).val = (((regs [(2, 0xFF)] launch).getV 2).toNat + 14) % 32 ∧
    (∀ k < 3, 0x002 ≠ ((State.I { launch with I := 0xFFF }).toNat + k) % 4096) :=
  ⟨.inl rfl, .inr (.inr (by decide)), .inl rfl, .inr (.inr (by decide)), .inl rfl, by decide, by decide, by decide, by decide,
    by decide⟩

/-- Two bytes at the top of memory. -/
theorem witness_StoreIsSeenByTheNextFetch : ∃ t : State, (1 : Nibble) ≤ 1 ∧
    State.dataInRange (fatal { launch with I := 0xFFE }) ((1 : Nibble).val + 1) ∧
    (fatal { launch with I := 0xFFE }).I.toNat ≤ 0xFFE ∧ exec (.opFX55 1) (fatal { launch with I := 0xFFE }) = .next t :=
  ⟨_, by decide, .inr (.inr (by decide)), by decide, rfl⟩

/-- Fifteen rows in range up to `0xFF1` under `fatal`, none anywhere, and out of range from `0xFF2` on. -/
theorem witness_DrawInvertsExactlyTheCoveredPixels : State.dataInRange { launch with I := 0xFFFF } 15 ∧
    State.dataInRange (fatal { launch with I := 0xFF1 }) (15 : Nibble).val ∧
    State.dataInRange (fatal { launch with I := 0xFFFF }) (0 : Nibble).val ∧
    (fatal { launch with I := 0xFF2 }).config.boundsPolicy = .fatal ∧ (15 : Nibble) ≠ 0 ∧
    0xFFF < (fatal { launch with I := 0xFF2 }).I.toNat + (15 : Nibble).val - 1 :=
  ⟨.inl rfl, .inr (.inr (by decide)), .inr (.inl rfl), rfl, by decide, by decide⟩

/-- The first font row `0xF0` at the right edge: pixel `(63, 31)` is covered and pixel `(4, 31)` is not. -/
theorem witness_DrawInvertsExactlyTheCoveredPixels_pixels :
    launch.spriteCovers 63 31 1 63 31 ∧ ¬launch.spriteCovers 63 31 1 4 31 := by
  refine ⟨⟨0, 0, by decide, by decide, by decide, rfl, rfl⟩, ?_⟩
  rintro ⟨r, c, hr, hc, hb, hx, -⟩
  have hr : r = 0 := by omega
  have hx : (63 + c) % 64 = 4 := hx
  have hc : c = 5 := by omega
  subst hr; subst hc
  exact absurd hb (by decide)

/-- The first draw on a dark screen meets no lit pixel, and its sprite has a 1 bit. -/
theorem witness_DrawingTwiceRestoresTheScreen : (1 : Nibble) ≠ 15 ∧ (2 : Nibble) ≠ 15 ∧ launch.dataInRange (5 : Nibble).val ∧
    see (fun t => t.getV 15) (exec (.opDXYN 1 2 5) launch) = some 0 ∧
    ∃ px py, launch.spriteCovers (launch.getV 1).toNat (launch.getV 2).toNat (5 : Nibble).val px py :=
  ⟨by decide, by decide, .inl rfl, by decide, 0, 0, 0, 0, by decide, by decide, by decide, rfl, rfl⟩

/-- `0xF5` names key 5 (T145), `0xFF` key F. -/
theorem witness_KeySkipsTestTheLowNibbleKey : ((regs [(2, 0xF5)] launch).getV 2).toNat % 16 = (5 : Nibble).val ∧
    ((regs [(2, 0xFF)] launch).getV 2).toNat % 16 = (15 : Nibble).val := by decide

/-- E9, and key F alone. -/
theorem witness_NewlyDownKeyEndsTheWait : let s : State := { launch with runState := .waitKey 2 }
    s.runState = .waitKey 2 ∧ s.key[(3 : Nibble)] = false ∧ (down [3, 9])[(3 : Nibble)] = true ∧
    (∀ j : Nibble, j < 3 → ¬(s.key[j] = false ∧ (down [3, 9])[j] = true)) ∧
    s.key[(15 : Nibble)] = false ∧ (down [15])[(15 : Nibble)] = true ∧
    ∀ j : Nibble, j < 15 → ¬(s.key[j] = false ∧ (down [15])[j] = true) := by decide

/-- Outside a wait; and a wait with a key held or released (E10). -/
theorem witness_KeyUpdateOtherwiseOnlyReplacesTheKeys : (∀ x, launch.runState ≠ .waitKey x) ∧
    (∀ k : Nibble, (down [4])[k] = true ∨ (down [4])[k] = false) ∧
    ∀ k : Nibble, (down [4])[k] = true ∨ (down [])[k] = false := by decide

/-- An instruction that is not `FX18`, and its next state. -/
theorem witness_DelayTimerIsReadAndSoundTimerIsNot : (∀ y, Instr.opFX07 1 ≠ .opFX18 y) ∧ ∃ t, exec (.opFX07 1) launch = .next t :=
  ⟨by decide, _, rfl⟩

/-- E12 to E15: at each entry point the longest image and one byte more; and an address of each clause. -/
theorem witness_LoadAcceptsExactlyWhatFits :
    (List.replicate 3584 (0 : Byte)).length ≤ 4096 - EntryPoint.standard.addr ∧
    4096 - EntryPoint.standard.addr < (List.replicate 3585 (0 : Byte)).length ∧
    (List.replicate 2560 (0 : Byte)).length ≤ 4096 - EntryPoint.eti660.addr ∧
    4096 - EntryPoint.eti660.addr < (List.replicate 2561 (0 : Byte)).length ∧
    0x1FF < 0x200 ∧ (0x200 ≤ 0x5FF ∧ 0x5FF < EntryPoint.eti660.addr) ∧
    (EntryPoint.eti660.addr ≤ 0xFFF ∧ 0xFFF ≤ 0xFFF) := by
  simp only [List.length_replicate]; decide

/-- E13: one byte too long. -/
theorem witness_OversizedLoadLeavesTheStateUntouched :
    launch.config.entryPoint = .standard ∧ 3584 < (List.replicate 3585 (0 : Byte)).length :=
  ⟨rfl, by rw [List.length_replicate]; decide⟩

/-- An image of the longest length, an address of each clause, and its last byte. -/
theorem witness_LaunchStateIsAsStated : ∃ r : State,
    (List.replicate 3584 (0 : Byte)).length ≤ 4096 - launch.config.entryPoint.addr ∧ launch.applyEvent .reset = .next r ∧
    79 < 80 ∧ (80 ≤ 0x1FF ∧ 0x1FF < 0x200) ∧ 3583 < (List.replicate 3584 (0 : Byte)).length :=
  ⟨_, by rw [List.length_replicate]; decide, rfl, by decide, by decide, by rw [List.length_replicate]; decide⟩

/-- The clause on the rest of the program area, on both sides of a two-byte image at entry point `0x600`. -/
theorem witness_LaunchStateIsAsStated_rest : ∀ a ∈ [0x200, 0x5FF, 0x602, 0xFFF], 0x200 ≤ a ∧ a ≤ 0xFFF ∧
    ¬(EntryPoint.eti660.addr ≤ a ∧ a < EntryPoint.eti660.addr + [(0x60 : Byte), 0x05].length) := by decide

/-- One instruction that writes its elements and one that faults. -/
theorem witness_InstructionsWriteOnlyTheirElements :
    (∃ t, exec (.opDXYN 1 2 5) launch = .next t) ∧ ∃ t, exec .op00EE launch = .next t := ⟨⟨_, rfl⟩, _, rfl⟩

theorem witness_EventsWriteOnlyTheirElements :
    (∃ t, launch.applyEvent .instrTick = .next t) ∧ ∃ t, launch.applyEvent (.keyUpdate (down [7])) = .next t :=
  ⟨⟨_, rfl⟩, _, rfl⟩

/-- A full stack, an empty one, and a data address past memory under `fatal`. -/
theorem witness_InstructionsRaiseOnlyTheirFault : launch.unfaulted ∧
    (∃ t r, exec (.op2NNN 0x300) { launch with SP := 16 } = .next t ∧ t.runState = .faulted r ∧ r.kind = .stackOverflow) ∧
    (∃ t r, exec .op00EE launch = .next t ∧ t.runState = .faulted r ∧ r.kind = .stackUnderflow) ∧
    ∃ t r, exec (.opFX65 1) (fatal { launch with I := 0xFFF }) = .next t ∧ t.runState = .faulted r ∧
      r.kind = .memoryOutOfBounds :=
  ⟨nofun, ⟨_, _, rfl, rfl, rfl⟩, ⟨_, _, rfl, rfl, rfl⟩, _, _, rfl, rfl, rfl⟩

/-- A fault of each stage: fetch, decode, execute. -/
theorem witness_FaultsArePrecise : ∀ s ∈ [{ launch with pc := 0xFFF }, launch, poke [(0x201, 0xEE)] launch],
    s.enabled = true ∧ see (fun t => t.runState matches .faulted _) (s.applyEvent .instrTick) = some true := by decide

theorem witness_TimerTickCommutesWithOtherInstructions :
    (∀ x, Instr.opFX0A 2 ≠ .opFX07 x ∧ Instr.opFX0A 2 ≠ .opFX15 x ∧ Instr.opFX0A 2 ≠ .opFX18 x) ∧
    ∃ t, exec (.opFX0A 2) launch = .next t := ⟨by decide, _, rfl⟩

theorem witness_KeyUpdateCommutesWithOtherInstructions :
    (∀ x, Instr.op2NNN 0x300 ≠ .opEX9E x ∧ Instr.op2NNN 0x300 ≠ .opEXA1 x ∧ Instr.op2NNN 0x300 ≠ .opFX0A x) ∧
    launch.runState = .running ∧ ∃ t, exec (.op2NNN 0x300) launch = .next t := ⟨by decide, rfl, _, rfl⟩

theorem witness_InstructionRateHasNoEffect : ∃ t, step callBench = .next t := ⟨_, rfl⟩

/-- A state that meets the invariant with memory listed, a stack entry and a fault recorded, and its next step. -/
theorem witness_StepKeepsTheInvariant : ∃ t, State.Inv { callBench with
      SP := 1, stack := launch.stack.set 0 0x1000, runState := .faulted ⟨.pcOutOfBounds, 0x1000, none, none⟩, pc := 0x1000 } ∧
    callBench.Inv ∧ step callBench = .next t :=
  ⟨_, ⟨by decide, by decide, by decide, fun r h => by cases h; exact ⟨⟨by decide, by decide, by decide⟩, rfl⟩⟩,
    ⟨by decide, by decide, by decide, nofun⟩, rfl⟩

end Sys2Proof.Tests
end

section
/-! SUPPORT. Proofs of the statements on field extraction (R91, R103). -/

namespace Sys2Proof

/-- Settles O2: each field by its law as a number, the two overlaps by `ofWord_wellFormed` (R91), and the one record of R103 by
evaluation. -/
theorem fieldsAreTheBitSlicesOfTheWord : Obligations.FieldsAreTheBitSlicesOfTheWord := by
  unfold Obligations.FieldsAreTheBitSlicesOfTheWord
  constructor
  · intro w
    exact ⟨ofWord_op_toNat w, ofWord_x_toNat w, ofWord_y_toNat w, ofWord_n_toNat w, ofWord_nn_toNat w, ofWord_nnn_toNat w,
      ofWord_wellFormed w⟩
  · decide

end Sys2Proof
end

section
/-! SUPPORT. Rules for control transfer (`41_flow.md`): the frames of its state operations, calls and returns, skips, the fetch
fault past the last word, and the words next to `5XY0` and `9XY0`. -/

namespace Sys2Proof

/-- With primary nibble 5 or 9 only the sub-opcode nibble 0 selects a row (R95, R98). -/
theorem decodeWord_unknown_of_registerCompare {w : Word} (hop : w.toNat / 0x1000 = 5 ∨ w.toNat / 0x1000 = 9)
    (hn : w.toNat % 0x10 ≠ 0) : decodeWord w = .error (.unknownOpcode w) := by
  have hn0 : (Fields.ofWord w).n ≠ 0x0#4 := fun h => hn (by rw [← ofWord_n_toNat, h]; rfl)
  have hnone : decodeFields (Fields.ofWord w) = none := by
    rcases hop with hop | hop <;> simp [decodeFields, hop, hn0]
  simp [decodeWord, hnone]

namespace Machine

@[simp] theorem zextAddr_toNat (nnn : BitVec 12) : (zextAddr nnn).toNat = nnn.toNat :=
  BitVec.toNat_setWidth_of_le (by decide)

/-! ## Frames -/

theorem changesOnly_refl (s : State) : ChangesOnly [] s s := by
  refine ⟨fun e _ => ?_, rfl, rfl⟩
  cases e with
  | mem | V => exact fun _ => rfl
  | _ => rfl

/-- A write of `pc` adds `pc` to what has changed. -/
theorem ChangesOnly.setPc {es : List Element} {s t : State} (h : ChangesOnly es s t) (a : Word) :
    ChangesOnly (.pc :: es) s (t.setPc a) := by
  obtain ⟨hsame, hconfig, hpending⟩ := h
  refine ⟨fun e he => ?_, hconfig, hpending⟩
  obtain ⟨hpc, hes⟩ := not_or.mp (List.mem_cons.not.mp he)
  cases e with
  | pc => exact absurd rfl hpc
  | _ => exact hsame _ hes

namespace State

variable (s : State)

/-! ## The call stack (R26) -/

/-- A successful push: the count grows, its slot holds the value, the other slots and elements are kept. -/
theorem push_spec (a : Word) (h : s.SP.val < 16) :
    ∃ t, s.push a = some t ∧ t.SP.val = s.SP.val + 1 ∧ t.stack[s.SP.val]? = some a ∧
      (∀ k, k ≠ s.SP.val → t.stack[k]? = s.stack[k]?) ∧ ChangesOnly [.SP, .stack] s t := by
  refine ⟨_, s.push_of_lt a h, rfl, ?_, fun k hk => ?_, fun e he => ?_, rfl, rfl⟩
  · exact Vector.getElem?_set_self h
  · exact Vector.getElem?_set_ne h hk.symm
  · cases e with
    | SP | stack => simp at he
    | mem | V => exact fun _ => rfl
    | _ => rfl

/-- A successful pop: the value is the newest slot, and only the count changes. -/
theorem pop_spec (h : 0 < s.SP.val) :
    ∃ a t, s.pop = some (a, t) ∧ t.SP.val = s.SP.val - 1 ∧ s.stack[s.SP.val - 1]? = some a ∧ ChangesOnly [.SP] s t := by
  refine ⟨_, _, s.pop_of_pos h, rfl, Vector.getElem?_eq_getElem _, fun e he => ?_, rfl, rfl⟩
  cases e with
  | SP => simp at he
  | mem | V => exact fun _ => rfl
  | _ => rfl

/-! ## Skips (R127) -/

theorem skipIf_eq_setPc (c : Bool) : s.skipIf c = s.setPc (if c then s.pc + 2 else s.pc) := by cases c <;> rfl

theorem changesOnly_skipIf (c : Bool) : ChangesOnly [.pc] s (s.skipIf c) :=
  s.skipIf_eq_setPc c ▸ (changesOnly_refl s).setPc _

/-! ## Faults -/

/-- A fault raised in the execute stage leaves the state of the beginning of the tick but for `run_state` (R124). -/
theorem raise_faultsWith (kind : FaultKind) (i : Instr) (info : Option Nat) :
    s.beforeFetch.FaultsWith kind (s.raise kind i info) := ⟨_, rfl, rfl⟩

/-- Above `0xFFE` no word can be fetched (R121, R251). -/
theorem fetchFaults_of_lt_pc (h : 0xFFE < s.pc.toNat) : s.fetchFaults := by
  intro hrun hpaused
  have hfetch : s.fetchable = false := by simp [fetchable, h]
  rw [s.instrTick_of_enabled (s.enabled_iff.mpr ⟨hrun, hpaused⟩), s.cycle_of_not_fetchable hfetch]
  exact ⟨_, rfl, rfl⟩

/-! ## Calls and returns (R140, R142) -/

/-- A call is a push of `pc` followed by a jump. -/
theorem exec_op2NNN_of_push {t : State} (nnn : BitVec 12) (h : s.push s.pc = some t) :
    exec (.op2NNN nnn) s = .next (t.setPc (zextAddr nnn)) := by simp [exec, exec2NNN, h]

theorem exec_op2NNN_of_full (nnn : BitVec 12) (h : s.SP.val = 16) :
    exec (.op2NNN nnn) s = s.raise .stackOverflow (.op2NNN nnn) none := by simp [exec, exec2NNN, s.push_of_full s.pc h]

/-- A return is a pop into `pc`. -/
theorem exec_op00EE_of_pop {a : Word} {t : State} (h : s.pop = some (a, t)) :
    exec .op00EE s = .next (t.setPc a) := by simp [exec, exec00EE, h]

theorem exec_op00EE_of_empty (h : s.SP.val = 0) :
    exec .op00EE s = s.raise .stackUnderflow .op00EE none := by simp [exec, exec00EE, s.pop_of_empty h]

/-- After a successful call the newest slot of the stack is the address after the call. -/
theorem exec_op2NNN_newest {v : State} {nnn : BitVec 12} (h : s.SP.val < 16) (hv : exec (.op2NNN nnn) s = .next v) :
    v.SP.val = s.SP.val + 1 ∧ v.stack[v.SP.val - 1]? = some s.pc := by
  obtain ⟨t, hpush, hSP, hslot, -⟩ := s.push_spec s.pc h
  obtain rfl : t.setPc (zextAddr nnn) = v := Host.Outcome.next.inj ((s.exec_op2NNN_of_push nnn hpush).symm.trans hv)
  refine ⟨hSP, ?_⟩
  rw [setPc_SP, hSP]
  exact hslot

end State

end Machine

end Sys2Proof
end

section
/-! SUPPORT. Proofs of the statements on control transfer (R140 to R146). -/

namespace Sys2Proof

open Sys2Proof.Machine

/-- Settles O19: the jump is one write of `pc`; a target of `0xFFF` is above the last fetchable address, and a target equal to
`pc0` makes that write the one that revokes fetch's. -/
theorem jumpReplacesPc : Obligations.JumpReplacesPc := by
  unfold Obligations.JumpReplacesPc
  intro nnn s
  refine ⟨by simp [encode], s.setPc (zextAddr nnn), rfl, zextAddr_toNat nnn, (changesOnly_refl s).setPc _, ?_, ?_⟩
  · rintro rfl
    exact State.fetchFaults_of_lt_pc _ (by rw [State.setPc_pc, zextAddr_toNat]; decide)
  · intro hself
    have hpc : zextAddr nnn = s.beforeFetch.pc := BitVec.eq_of_toNat_eq ((zextAddr_toNat nnn).trans hself.symm)
    rw [hpc]
    rfl

/-- Settles O20: below 16 entries by the law of a push, followed by a write of `pc`; with 16 the push fails. -/
theorem callPushesReturnAddress : Obligations.CallPushesReturnAddress := by
  unfold Obligations.CallPushesReturnAddress
  intro nnn s
  refine ⟨by simp [encode], fun hlt => ?_, fun hfull => ?_⟩
  · obtain ⟨t, hpush, hSP, hslot, hslots, hframe⟩ := s.push_spec s.pc hlt
    exact ⟨t.setPc (zextAddr nnn), s.exec_op2NNN_of_push nnn hpush, zextAddr_toNat nnn, hSP, hslot, hslots, hframe.setPc _⟩
  · rw [s.exec_op2NNN_of_full nnn hfull]
    exact s.raise_faultsWith _ _ _

/-- Settles O21: the value popped is the newest slot, which after a call holds the address after that call. -/
theorem returnPopsIntoPc : Obligations.ReturnPopsIntoPc := by
  unfold Obligations.ReturnPopsIntoPc
  intro s
  refine ⟨rfl, fun hSP => ?_, fun hempty => ?_⟩
  · obtain ⟨a, t, hpop, hcount, hnewest, hframe⟩ := s.pop_spec (Nat.pos_of_ne_zero hSP)
    refine ⟨t.setPc a, s.exec_op00EE_of_pop hpop, hcount, hnewest, hframe.setPc a, State.fetchFaults_of_lt_pc _, ?_⟩
    intro u v nnn hlt hcall hsame hslots
    obtain ⟨hvSP, hpushed⟩ := u.exec_op2NNN_newest hlt hcall
    have heq : some a = some u.pc := by
      rw [← hnewest, hsame, hslots _ (by omega), hpushed]
    exact Option.some.inj heq
  · rw [s.exec_op00EE_of_empty hempty]
    exact s.raise_faultsWith _ _ _

/-- Settles O22: each of the four is `skipIf` on its condition. -/
theorem registerSkipsTestTheirCondition : Obligations.RegisterSkipsTestTheirCondition := by
  unfold Obligations.RegisterSkipsTestTheirCondition
  intro x y nn s
  refine ⟨⟨by simp [encode], s.skipIf (s.getV x == nn), rfl, by simp, s.changesOnly_skipIf _⟩,
    ⟨by simp [encode], s.skipIf (s.getV x != nn), rfl, by simp, s.changesOnly_skipIf _⟩,
    ⟨by simp [encode], s.skipIf (s.getV x == s.getV y), rfl, by simp, s.changesOnly_skipIf _, fun w hop hn => ?_⟩,
    ⟨by simp [encode], s.skipIf (s.getV x != s.getV y), rfl, by simp, s.changesOnly_skipIf _, fun w hop hn => ?_⟩⟩
  · exact decodeWord_unknown_of_registerCompare (.inl hop) hn
  · exact decodeWord_unknown_of_registerCompare (.inr hop) hn

end Sys2Proof
end

section
/-! SUPPORT. Rules for register load, arithmetic and logic (`42_alu.md`): the words of format `XYN`, the frame of a write of a
register, a result followed by a flag, and the values of the flags. -/

namespace Sys2Proof

/-- The word of format `XYN` as the rules write it: both opcode digits first, then the register indices (R93). -/
theorem packXYN_toNat_opcode_first (op : BitVec 4) (x y : Nibble) (n : BitVec 4) :
    (packXYN op x y n).toNat = op.toNat * 0x1000 + n.toNat + x.val * 0x100 + y.val * 0x10 := by
  rw [packXYN_toNat]; omega

namespace Machine

/-! ## Flags and differences (R166, R167) -/

theorem carryFlag_eq_ite (a b : Byte) : carryFlag a b = if 255 < a.toNat + b.toNat then 1 else 0 := by
  simp [carryFlag, flagByte]

theorem noBorrowFlag_eq_ite (m n : Byte) : noBorrowFlag m n = if n.toNat ≤ m.toNat then 1 else 0 := by
  simp [noBorrowFlag, flagByte]

/-- A difference modulo 256, with the 256 borrowed before the subtraction. -/
theorem byte_sub_toNat (m n : Byte) : (m - n).toNat = (m.toNat + 256 - n.toNat) % 256 := by
  rw [BitVec.toNat_sub]; omega

/-! ## Frames -/

/-- Listing more elements weakens a frame. -/
theorem ChangesOnly.mono {es es' : List Element} {s t : State} (h : ChangesOnly es s t) (hsub : es ⊆ es') :
    ChangesOnly es' s t := by
  obtain ⟨hsame, hconfig, hpending⟩ := h
  exact ⟨fun e he => hsame e (fun hes => he (hsub hes)), hconfig, hpending⟩

/-- A write of a register adds `V` to what has changed. -/
theorem ChangesOnly.setV {es : List Element} {s t : State} (h : ChangesOnly es s t) (x : Nibble) (b : Byte) :
    ChangesOnly (.V :: es) s (t.setV x b) := by
  obtain ⟨hsame, hconfig, hpending⟩ := h
  refine ⟨fun e he => ?_, hconfig, hpending⟩
  obtain ⟨hV, hes⟩ := not_or.mp (List.mem_cons.not.mp he)
  cases e with
  | V => exact absurd rfl hV
  | _ => exact hsame _ hes

namespace State

variable (s : State)

/-- A write of `V[X]` keeps the other registers, `VF` included, and every element but `V`. -/
theorem setV_frame (x : Nibble) (b : Byte) : RegsKeptExcept [x] s (s.setV x b) ∧ ChangesOnly [.V] s (s.setV x b) :=
  ⟨fun _ hr => s.getV_setV_of_ne b (List.ne_of_not_mem_cons hr), (changesOnly_refl s).setV x b⟩

/-- A result to `V[X]`, then a flag to `VF`: the flag stands in every case, the result unless `X = 0xF`, and the other registers
and elements are kept. -/
theorem setV_setVF_spec {t : State} {x : Nibble} {b flag : Byte} (ht : t = (s.setV x b).setVF flag) :
    (x ≠ 15 → t.getV x = b) ∧ t.getV 15 = flag ∧ RegsKeptExcept [x, 15] s t ∧ ChangesOnly [.V] s t := by
  subst ht
  refine ⟨fun hx => ?_, getV_setVF_self _ flag, fun r hr => ?_, ?_⟩
  · rw [getV_setVF_of_ne _ flag hx, getV_setV_self]
  · obtain ⟨hrx, hrF⟩ : r ≠ x ∧ r ≠ 15 := by simpa using hr
    rw [getV_setVF_of_ne _ flag hrF, getV_setV_of_ne s b hrx]
  · exact (((changesOnly_refl s).setV x b).setV 15 flag).mono (by simp)

/-- What `8XY5` and `8XY7` share: the difference of minuend `m` and subtrahend `n` to `V[X]`, then the no-borrow flag (R167,
R169). -/
theorem setV_sub_setVF_noBorrow_spec {t : State} {x : Nibble} {m n : Byte}
    (ht : t = (s.setV x (m - n)).setVF (noBorrowFlag m n)) :
    (x ≠ 15 → (t.getV x).toNat = (m.toNat + 256 - n.toNat) % 256) ∧
      t.getV 15 = (if n.toNat ≤ m.toNat then 1 else 0) ∧ RegsKeptExcept [x, 15] s t ∧ ChangesOnly [.V] s t := by
  obtain ⟨hresult, hflag, hframe⟩ := s.setV_setVF_spec ht
  exact ⟨fun hx => by rw [hresult hx, byte_sub_toNat], hflag.trans (noBorrowFlag_eq_ite m n), hframe⟩

end State

end Machine

end Sys2Proof
end

section
/-! SUPPORT. Proofs of the statements on register load, arithmetic and logic (R160 to R167, R169). -/

namespace Sys2Proof

open Sys2Proof.Machine

/-- Settles O12: the instruction is one write of `V[X]`. -/
theorem loadByteWritesItsRegister : Obligations.LoadByteWritesItsRegister := by
  unfold Obligations.LoadByteWritesItsRegister
  intro x nn s
  exact ⟨packXNN_toNat 0x6 x nn, s.setV x nn, rfl, s.getV_setV_self x nn, s.setV_frame x nn⟩

/-- Settles O13: the instruction is one write of `V[X]`, of a sum of bytes. -/
theorem addByteWrapsAndSetsNoFlag : Obligations.AddByteWrapsAndSetsNoFlag := by
  unfold Obligations.AddByteWrapsAndSetsNoFlag
  intro x nn s
  refine ⟨packXNN_toNat 0x7 x nn, s.setV x (s.getV x + nn), rfl, ?_, s.setV_frame x _⟩
  rw [State.getV_setV_self, BitVec.toNat_add]

/-- Settles O14: each of the four is one write of `V[X]`, of a value with the bits stated. -/
theorem copyAndLogicWriteOneRegister : Obligations.CopyAndLogicWriteOneRegister := by
  unfold Obligations.CopyAndLogicWriteOneRegister
  intro x y s
  refine ⟨⟨packXYN_toNat_opcode_first 0x8 x y 0x0, s.setV x (s.getV y), rfl, s.getV_setV_self x _, s.setV_frame x _⟩,
    ⟨packXYN_toNat_opcode_first 0x8 x y 0x1, s.setV x (s.getV x ||| s.getV y), rfl, fun k _ => ?_, s.setV_frame x _⟩,
    ⟨packXYN_toNat_opcode_first 0x8 x y 0x2, s.setV x (s.getV x &&& s.getV y), rfl, fun k _ => ?_, s.setV_frame x _⟩,
    ⟨packXYN_toNat_opcode_first 0x8 x y 0x3, s.setV x (s.getV x ^^^ s.getV y), rfl, fun k _ => ?_, s.setV_frame x _⟩⟩
  · rw [State.getV_setV_self, BitVec.getLsbD_or]
  · rw [State.getV_setV_self, BitVec.getLsbD_and]
  · rw [State.getV_setV_self, BitVec.getLsbD_xor]

/-- Settles O15: the sum to `V[X]`, then the carry to `VF`, which stands when `X = 0xF`. -/
theorem addRegistersGivesSumThenCarry : Obligations.AddRegistersGivesSumThenCarry := by
  unfold Obligations.AddRegistersGivesSumThenCarry
  intro x y s
  refine ⟨packXYN_toNat_opcode_first 0x8 x y 0x4,
    (s.setV x (s.getV x + s.getV y)).setVF (carryFlag (s.getV x) (s.getV y)), rfl, ?_⟩
  obtain ⟨hsum, hcarry, hframe⟩ := s.setV_setVF_spec rfl
  exact ⟨fun hx => by rw [hsum hx, BitVec.toNat_add], hcarry.trans (carryFlag_eq_ite _ _), hframe⟩

/-- Settles O16: one rule for both, with the operands exchanged for `8XY7`. -/
theorem subtractGivesDifferenceThenNoBorrow : Obligations.SubtractGivesDifferenceThenNoBorrow := by
  unfold Obligations.SubtractGivesDifferenceThenNoBorrow
  intro x y s
  exact ⟨⟨packXYN_toNat_opcode_first 0x8 x y 0x5, _, rfl, s.setV_sub_setVF_noBorrow_spec rfl⟩,
    ⟨packXYN_toNat_opcode_first 0x8 x y 0x7, _, rfl, s.setV_sub_setVF_noBorrow_spec rfl⟩⟩

end Sys2Proof
end

section
/-! SUPPORT. Rules for the address register and memory transfer (`43_index_memory.md`): the words of format `X`, the values formed
from a register, the frames of `I`, of a store and of a load, and the two ways an instruction with data addresses answers. -/

namespace Sys2Proof

/-- The word of format `X` as the rules write it: the opcode digit and the sub-opcode byte first, then the register index (R93). -/
theorem packXNN_toNat_opcode_first (op : BitVec 4) (x : Nibble) (nn : Byte) :
    (packXNN op x nn).toNat = op.toNat * 0x1000 + nn.toNat + x.val * 0x100 := by
  rw [packXNN_toNat]; omega

namespace Machine

/-! ## Operand values (R192, R193) -/

theorem glyphAddr_toNat (d : Nibble) : (glyphAddr d).toNat = d.val * 5 := by
  have hd := d.isLt
  rw [glyphAddr, BitVec.toNat_ofNat, Nat.mod_eq_of_lt (by omega)]

theorem bcdDigits_length (b : Byte) : (bcdDigits b).length = 3 := rfl

/-- Each decimal digit of a byte fits in a byte, so that storing it loses nothing. -/
theorem map_toNat_bcdDigits (b : Byte) :
    (bcdDigits b).map BitVec.toNat = [b.toNat / 100, b.toNat / 10 % 10, b.toNat % 10] := by
  have hb : b.toNat < 256 := b.isLt
  have hfits : ∀ {d : Nat}, d < 10 → (BitVec.ofNat 8 d).toNat = d := fun hd => Nat.mod_eq_of_lt (by omega)
  simp only [bcdDigits, List.map_cons, List.map_nil]
  rw [hfits (by omega), hfits (by omega), hfits (by omega)]

/-! ## Frames -/

/-- A write of `I` adds `I` to what has changed. -/
theorem ChangesOnly.setI {es : List Element} {s t : State} (h : ChangesOnly es s t) (v : Word) :
    ChangesOnly (.I :: es) s (t.setI v) := by
  obtain ⟨hsame, hconfig, hpending⟩ := h
  refine ⟨fun e he => ?_, hconfig, hpending⟩
  obtain ⟨hI, hes⟩ := not_or.mp (List.mem_cons.not.mp he)
  cases e with
  | I => exact absurd rfl hI
  | _ => exact hsame _ hes

namespace State

variable (s : State)

theorem changesOnly_memWriteList (a : Nat) (bs : List Byte) : ChangesOnly [.mem] s (s.memWriteList a bs) := by
  rw [memWriteList_eq]
  refine ⟨fun e he => ?_, rfl, rfl⟩
  cases e with
  | mem => simp at he
  | V => exact fun _ => rfl
  | _ => rfl

theorem changesOnly_loadRegs (a : Nat) (is : List Nibble) : ChangesOnly [.V] s (s.loadRegs a is) := by
  rw [loadRegs_eq]
  refine ⟨fun e he => ?_, rfl, rfl⟩
  cases e with
  | V => simp at he
  | mem => exact fun _ => rfl
  | _ => rfl

/-! ## A store at the data addresses `I + k` (R189, R193, R194) -/

/-- Byte `k` of a store from `I` on reads back at `EA(I + k)`. -/
theorem readByte_memWriteList_dataAddr {bs : List Byte} (hl : bs.length ≤ memSize) {k : Nat} (hk : k < bs.length) :
    (s.memWriteList (s.dataAddr 0) bs).readByte (ea (s.dataAddr k)) = bs[k] :=
  readByte_memWriteList bs s (s.dataAddr 0) k hk hl

/-- A store from `I` on keeps every byte of memory but those at `EA(I + k)`. -/
theorem memKeptExcept_memWriteList_dataAddr {bs : List Byte} {stored : List Nat}
    (h : ∀ k < bs.length, ea (s.dataAddr k) ∈ stored) : MemKeptExcept stored s (s.memWriteList (s.dataAddr 0) bs) := by
  intro a ha
  refine readByte_memWriteList_of_ne bs s (s.dataAddr 0) a (fun k hk heq => ha ?_)
  rw [heq]
  exact h k hk

/-! ## The check of the data addresses (R68, R69) -/

theorem guardRange_of_dataInRange {i : Instr} {count : Nat} {k : Result} (h : s.dataInRange count) :
    s.guardRange i (s.dataAddr 0) count k = k := s.guardRange_of_none ((s.outOfBounds_none_iff count).mpr h)

/-- Under `fatal`, with the last data address `I + n` above `0xFFF`, the fault is raised whatever would follow the check. -/
theorem guardRange_faultsWith {i : Instr} {n : Nat} {k : Result} (hfatal : s.config.boundsPolicy = .fatal)
    (h : 0xFFF < s.I.toNat + n) :
    s.beforeFetch.FaultsWith .memoryOutOfBounds (s.guardRange i (s.dataAddr 0) (n + 1) k) := by
  have hout : memSize < s.dataAddr 0 + (n + 1) := Nat.succ_lt_succ h
  rw [s.guardRange_of_some (hfatal ▸ outOfBounds_fatal_some (Nat.succ_ne_zero n) hout)]
  exact s.raise_faultsWith _ _ _

end State

end Machine

end Sys2Proof
end

section
/-! SUPPORT. Proofs of the statements on the address register and memory transfer (R190, R192 to R195). -/

namespace Sys2Proof

open Sys2Proof.Machine

/-- Settles O25: the instruction is one write of `I`. -/
theorem loadAddressRegister : Obligations.LoadAddressRegister := by
  unfold Obligations.LoadAddressRegister
  intro nnn s
  exact ⟨packNNN_toNat 0xA nnn, s.setI (zextAddr nnn), rfl, zextAddr_toNat nnn, (changesOnly_refl s).setI _⟩

/-- Settles O27: the instruction is one write of `I`, of five bytes for each of the 16 glyphs. -/
theorem pointAtFontGlyph : Obligations.PointAtFontGlyph := by
  unfold Obligations.PointAtFontGlyph
  intro x s
  have hglyph : (glyphAddr (lowNibble (s.getV x))).toNat = (s.getV x).toNat % 16 * 5 := glyphAddr_toNat _
  refine ⟨packXNN_toNat_opcode_first 0xF x 0x29, s.setI (glyphAddr (lowNibble (s.getV x))), rfl, hglyph, ?_,
    (changesOnly_refl s).setI _⟩
  rw [State.setI_I, hglyph]
  omega

/-- Settles O28: in range the instruction is one store of the three digits, out of range the check answers. -/
theorem storeDecimalDigits : Obligations.StoreDecimalDigits := by
  unfold Obligations.StoreDecimalDigits
  intro x s
  refine ⟨packXNN_toNat_opcode_first 0xF x 0x33, fun hrange => ?_, fun hfatal hout => s.guardRange_faultsWith hfatal hout⟩
  have hread : ∀ {k : Nat} (hk : k < 3), (s.memWriteList (s.dataAddr 0) (bcdDigits (s.getV x))).readByte (ea (s.dataAddr k)) =
      (bcdDigits (s.getV x))[k]'hk := fun hk =>
    s.readByte_memWriteList_dataAddr (by rw [bcdDigits_length]; decide) hk
  have hdigits := map_toNat_bcdDigits (s.getV x)
  simp only [bcdDigits, List.map_cons, List.cons.injEq] at hdigits
  obtain ⟨hhundreds, htens, hones, -⟩ := hdigits
  refine ⟨s.memWriteList (s.dataAddr 0) (bcdDigits (s.getV x)), s.guardRange_of_dataInRange hrange, ?_, ?_, ?_,
    s.memKeptExcept_memWriteList_dataAddr ?_, s.changesOnly_memWriteList _ _⟩
  · rw [hread (by decide)]; exact hhundreds
  · rw [hread (by decide)]; exact htens
  · rw [hread (by decide)]; exact hones
  · intro k hk
    rw [bcdDigits_length] at hk
    interval_cases k <;> simp

/-- Settles O29: in range the instruction is one store of `V[0]` to `V[X]`, whose position `k` is `V[k]`; out of range the check
answers. -/
theorem storeRegistersInclusive : Obligations.StoreRegistersInclusive := by
  unfold Obligations.StoreRegistersInclusive
  intro x s
  refine ⟨packXNN_toNat_opcode_first 0xF x 0x55, fun hrange => ?_, fun hfatal hout => s.guardRange_faultsWith hfatal hout⟩
  have hlength : ((regsUpTo x).map s.getV).length = x.val + 1 := by simp
  refine ⟨s.memWriteList (s.dataAddr 0) ((regsUpTo x).map s.getV), s.guardRange_of_dataInRange hrange, fun k hk => ?_,
    s.memKeptExcept_memWriteList_dataAddr fun k hk => ?_, s.changesOnly_memWriteList _ _⟩
  · have hlt : k.val < ((regsUpTo x).map s.getV).length := hlength ▸ Nat.lt_succ_of_le hk
    rw [s.readByte_memWriteList_dataAddr (by rw [hlength]; show x.val + 1 ≤ 4096; omega) hlt, List.getElem_map]
    exact congrArg s.getV (Fin.ext (regsUpTo_getElem x k.val _))
  · have hkx : k < x.val + 1 := hlength ▸ hk
    exact List.mem_map.mpr ⟨⟨k, by omega⟩, (mem_regsUpTo x _).mpr (Nat.le_of_lt_succ hkx), rfl⟩

/-- Settles O30: in range the instruction is one load of the registers up to `X`, out of range the check answers. -/
theorem loadRegistersInclusive : Obligations.LoadRegistersInclusive := by
  unfold Obligations.LoadRegistersInclusive
  intro x s
  refine ⟨packXNN_toNat_opcode_first 0xF x 0x65,
    fun hrange => ⟨s.loadRegs (s.dataAddr 0) (regsUpTo x), s.guardRange_of_dataInRange hrange, fun k hk => ?_, fun k hk => ?_,
      s.changesOnly_loadRegs _ _⟩,
    fun hfatal hout => s.guardRange_faultsWith hfatal hout⟩
  · rw [State.getV_loadRegs, if_pos ((mem_regsUpTo x k).mpr hk)]
    rfl
  · rw [State.getV_loadRegs, if_neg ((mem_regsUpTo x k).not.mpr (not_le.mpr hk))]

end Sys2Proof
end

section
/-! SUPPORT. Rules for the display (`44_display.md`): the frame of a write of the framebuffer. -/

namespace Sys2Proof

namespace Machine

/-- A write of the framebuffer adds `fb` to what has changed. -/
theorem ChangesOnly.setFb {es : List Element} {s t : State} (h : ChangesOnly es s t) (f : Framebuffer) :
    ChangesOnly (.fb :: es) s (t.setFb f) := by
  obtain ⟨hsame, hconfig, hpending⟩ := h
  refine ⟨fun e he => ?_, hconfig, hpending⟩
  obtain ⟨hfb, hes⟩ := not_or.mp (List.mem_cons.not.mp he)
  cases e with
  | fb => exact absurd rfl hfb
  | _ => exact hsame _ hes

end Machine

end Sys2Proof
end

section
/-! SUPPORT. Proofs of the statements on the display (R210). -/

namespace Sys2Proof

open Sys2Proof.Machine

/-- Settles O32: the instruction is one write of the framebuffer, of the one with every pixel off. -/
theorem clearTurnsEveryPixelOff : Obligations.ClearTurnsEveryPixelOff := by
  unfold Obligations.ClearTurnsEveryPixelOff
  intro s
  exact ⟨rfl, s.setFb Framebuffer.clear, rfl, pixel_clear, (changesOnly_refl s).setFb _⟩

end Sys2Proof
end

section
/-! SUPPORT. Rules for the keypad and the timers (`45_keypad_timer.md`): the frames of the timers, counting down, and the updates of
timers and keys that an instruction neither reads nor writes. -/

namespace Sys2Proof

namespace Machine

/-! ## Frames -/

/-- A change of one element `e` adds `e` to what has changed. -/
theorem ChangesOnly.cons {es : List Element} {s t u : State} (h : ChangesOnly es s t) {e : Element}
    (hstep : ∀ e', e' ≠ e → SameElement s t e' → SameElement s u e') (hconfig : u.config = t.config)
    (hpending : u.pending = t.pending) : ChangesOnly (e :: es) s u := by
  obtain ⟨hsame, hconfigt, hpendingt⟩ := h
  refine ⟨fun e' he' => ?_, hconfig.trans hconfigt, hpending.trans hpendingt⟩
  obtain ⟨hne, hes⟩ := not_or.mp (List.mem_cons.not.mp he')
  exact hstep e' hne (hsame e' hes)

/-- A write of `DT` adds `DT` to what has changed. -/
theorem ChangesOnly.setDT {es : List Element} {s t : State} (h : ChangesOnly es s t) (v : Byte) :
    ChangesOnly (.DT :: es) s (t.setDT v) := by
  refine h.cons (fun e he hsame => ?_) rfl rfl
  cases e with
  | DT => exact absurd rfl he
  | _ => exact hsame

/-- A write of `ST` adds `ST` to what has changed. -/
theorem ChangesOnly.setST {es : List Element} {s t : State} (h : ChangesOnly es s t) (v : Byte) :
    ChangesOnly (.ST :: es) s (t.setST v) := by
  refine h.cons (fun e he hsame => ?_) rfl rfl
  cases e with
  | ST => exact absurd rfl he
  | _ => exact hsame

/-! ## Counting down (R266, R268) -/

/-- One count is the predecessor, which stays at 0. -/
theorem countDown_toNat (b : Byte) : (countDown b).toNat = b.toNat - 1 := by
  unfold countDown
  split
  · bv_omega
  · bv_omega

namespace State

variable (s : State)

/-- After `n` ticks `ST` has lost `n`, not below 0. -/
theorem iterate_timerTick_ST_toNat (n : Nat) : (timerTick^[n] s).ST.toNat = s.ST.toNat - n := by
  have hpred : Function.Semiconj (fun t : State => t.ST.toNat) timerTick Nat.pred := fun t => countDown_toNat t.ST
  exact (hpred.iterate_right n s).trans (Nat.pred_iterate _ n)

theorem toneActive_iff : s.toneActive = true ↔ 0 < s.ST.toNat := decide_eq_true_iff

/-- The tone is active for as many ticks as `ST` counts. -/
theorem toneActive_iterate_timerTick (n : Nat) : (timerTick^[n] s).toneActive = true ↔ n < s.ST.toNat := by
  rw [toneActive_iff, iterate_timerTick_ST_toNat, Nat.sub_pos_iff_lt]

end State

/-! ## Updates of timers and keys

`TimerTick`, the part of `KeyUpdate` that replaces the keys, and a write of `ST` all change only `DT`, `ST` and `key`. An instruction
that has no use for what such an update changes commutes with it. -/

/-- Change the two timers and the keys by a function each. -/
def State.mapTimersKeys (d v : Byte → Byte) (k : Keys → Keys) (s : State) : State :=
  { s with DT := d s.DT, ST := v s.ST, key := k s.key }

theorem State.setST_eq_mapTimersKeys (s : State) (b : Byte) : s.setST b = s.mapTimersKeys id (fun _ => b) id := rfl

/-- The update leaves alone what the instruction reads or writes of the timers and the keys: `DT` for `FX07` and `FX15`, `ST` for
`FX18`, the keys for `EX9E` and `EXA1`. -/
def IgnoresUpdate (d v : Byte → Byte) (k : Keys → Keys) : Instr → Prop
  | .opFX07 _ | .opFX15 _ => d = id
  | .opFX18 _ => v = id
  | .opEX9E _ | .opEXA1 _ => k = id
  | _ => True

/-- Apply an update to the next state of a result. -/
def mapNext (f : State → State) : Result → Result
  | .next s => .next (f s)
  | .fault r => .fault r
  | .refused r => .refused r

@[simp] theorem mapNext_next (f : State → State) (s : State) : mapNext f (.next s) = .next (f s) := rfl

namespace State

variable (d v : Byte → Byte) (k : Keys → Keys) (s : State)

theorem skipIf_mapTimersKeys (c : Bool) :
    (s.mapTimersKeys d v k).skipIf c = (s.skipIf c).mapTimersKeys d v k := by
  rw [skipIf_eq_setPc, skipIf_eq_setPc]; rfl

theorem memWriteList_mapTimersKeys (bs : List Byte) : ∀ (s : State) (a : Nat),
    (s.mapTimersKeys d v k).memWriteList a bs = (s.memWriteList a bs).mapTimersKeys d v k := by
  induction bs with
  | nil => exact fun _ _ => rfl
  | cons b rest ih => exact fun s a => ih (s.memWrite a b) (a + 1)

theorem loadRegs_mapTimersKeys (is : List Nibble) : ∀ (s : State) (a : Nat),
    (s.mapTimersKeys d v k).loadRegs a is = (s.loadRegs a is).mapTimersKeys d v k := by
  induction is with
  | nil => exact fun _ _ => rfl
  | cons i rest ih => exact fun s a => ih (s.setV i (s.memRead (a + i.val))) a

/-- The range check does not look at timers or keys, so the update may come after it. -/
theorem guardRange_mapTimersKeys (i : Instr) (base count : Nat) (t : State) :
    (s.mapTimersKeys d v k).guardRange i base count (.next (t.mapTimersKeys d v k)) =
      mapNext (mapTimersKeys d v k) (s.guardRange i base count (.next t)) := by
  cases h : outOfBounds s.config.boundsPolicy base count with
  | none => rw [s.guardRange_of_none h, guardRange_of_none (s.mapTimersKeys d v k) h]; rfl
  | some a => rw [s.guardRange_of_some h, guardRange_of_some (s.mapTimersKeys d v k) h]; rfl

/-- A return takes the same branch, since the update keeps the call stack. -/
theorem exec_op00EE_mapTimersKeys :
    exec .op00EE (s.mapTimersKeys d v k) = mapNext (mapTimersKeys d v k) (exec .op00EE s) := by
  rcases Nat.eq_zero_or_pos s.SP.val with hempty | hpos
  · rw [s.exec_op00EE_of_empty hempty, exec_op00EE_of_empty (s.mapTimersKeys d v k) hempty]; rfl
  · rw [s.exec_op00EE_of_pop (s.pop_of_pos hpos), exec_op00EE_of_pop _ (pop_of_pos (s.mapTimersKeys d v k) hpos)]; rfl

/-- A call takes the same branch, since the update keeps the call stack. -/
theorem exec_op2NNN_mapTimersKeys (nnn : BitVec 12) :
    exec (.op2NNN nnn) (s.mapTimersKeys d v k) = mapNext (mapTimersKeys d v k) (exec (.op2NNN nnn) s) := by
  rcases Nat.lt_or_eq_of_le (Nat.le_of_lt_succ s.SP.isLt) with hlt | hfull
  · rw [s.exec_op2NNN_of_push nnn (s.push_of_lt _ hlt),
      exec_op2NNN_of_push _ nnn (push_of_lt (s.mapTimersKeys d v k) _ hlt)]
    rfl
  · rw [s.exec_op2NNN_of_full nnn hfull, exec_op2NNN_of_full (s.mapTimersKeys d v k) nnn hfull]; rfl

/-- Running an instruction commutes with an update of timers and keys that it ignores. -/
theorem exec_mapTimersKeys {i : Instr} (hi : IgnoresUpdate d v k i) :
    exec i (s.mapTimersKeys d v k) = mapNext (mapTimersKeys d v k) (exec i s) := by
  cases i with
  | op00EE => exact s.exec_op00EE_mapTimersKeys d v k
  | op2NNN nnn => exact s.exec_op2NNN_mapTimersKeys d v k nnn
  | op3XNN | op4XNN | op5XY0 | op9XY0 => exact congrArg Host.Outcome.next (s.skipIf_mapTimersKeys d v k _)
  | opEX9E | opEXA1 =>
    obtain rfl : k = id := hi
    exact congrArg Host.Outcome.next (s.skipIf_mapTimersKeys d v id _)
  | opFX07 | opFX15 =>
    obtain rfl : d = id := hi
    rfl
  | opFX18 =>
    obtain rfl : v = id := hi
    rfl
  | opDXYN =>
    simp only [exec, execDXYN]
    rw [← guardRange_mapTimersKeys]; rfl
  | opFX33 x =>
    simp only [exec, execFX33]
    rw [← guardRange_mapTimersKeys, ← memWriteList_mapTimersKeys]; rfl
  | opFX55 x =>
    simp only [exec, execFX55]
    rw [← guardRange_mapTimersKeys, ← memWriteList_mapTimersKeys]; rfl
  | opFX65 x =>
    simp only [exec, execFX65]
    rw [← guardRange_mapTimersKeys, ← loadRegs_mapTimersKeys]; rfl
  | _ => rfl

end State

end Machine

end Sys2Proof
end

section
/-! SUPPORT. Proofs of the statements on the timers (R232, R234, R235). -/

namespace Sys2Proof

open Sys2Proof.Machine

/-- Settles O36: `FX07` is one write of `V[X]`; a new value in `ST` is an update that every instruction but `FX18` ignores, and that
`FX18` overwrites. -/
theorem delayTimerIsReadAndSoundTimerIsNot : Obligations.DelayTimerIsReadAndSoundTimerIsNot := by
  unfold Obligations.DelayTimerIsReadAndSoundTimerIsNot
  refine ⟨fun x s => ⟨packXNN_toNat_opcode_first 0xF x 0x07, s.setV x s.DT, rfl, s.getV_setV_self x s.DT, s.setV_frame x s.DT⟩,
    fun i s t v hi ht => ?_, fun _ _ _ => rfl⟩
  have hignores : IgnoresUpdate id (fun _ => v) id i := by
    cases i with
    | opFX18 y => exact absurd rfl (hi y)
    | opFX07 | opFX15 | opEX9E | opEXA1 => rfl
    | _ => trivial
  have hexec := s.exec_mapTimersKeys _ _ _ hignores
  rw [ht, mapNext_next, ← State.setST_eq_mapTimersKeys, ← State.setST_eq_mapTimersKeys] at hexec
  exact hexec

/-- Settles O37: each is one write of a timer, and a timer written counts down from its new value. -/
theorem timerWritesTakeEffectAtOnce : Obligations.TimerWritesTakeEffectAtOnce := by
  unfold Obligations.TimerWritesTakeEffectAtOnce
  intro x s
  exact ⟨⟨packXNN_toNat_opcode_first 0xF x 0x15, s.setDT (s.getV x), rfl, rfl, countDown_toNat _,
      (changesOnly_refl s).setDT _⟩,
    ⟨packXNN_toNat_opcode_first 0xF x 0x18, s.setST (s.getV x), rfl, rfl, (changesOnly_refl s).setST _,
      State.toneActive_iterate_timerTick _⟩⟩

end Sys2Proof
end

section
/-! SUPPORT. Rules for loading a program (`70_reset_and_hazards.md`): the longest image, and a load that is rejected. -/

namespace Sys2Proof

namespace Machine

/-- R303 at the entry point `0x200`. -/
theorem maxRom_of_standard {cfg : Config} (h : cfg.entryPoint = .standard) : maxRom cfg = 3584 := by
  rw [maxRom, h]; rfl

namespace State

variable (s : State)

/-- R302: an image too long for the entry point is rejected before any change. -/
theorem loadRom_of_maxRom_lt {image : List Byte} (h : maxRom s.config < image.length) :
    s.loadRom image = (s, .romTooLarge) := if_pos h

/-- R302, R256: the event `LoadRom` of such an image answers the state it found, and `RomTooLarge` goes to the issuer. -/
theorem applyEvent_loadRom_of_maxRom_lt {image : List Byte} (h : maxRom s.config < image.length) :
    s.applyEvent (.loadRom image) = .next s ∧ s.reply (.loadRom image) = .load .romTooLarge := by
  simp only [applyEvent, reply, s.loadRom_of_maxRom_lt h, and_self]

end State

end Machine

end Sys2Proof
end

section
/-! SUPPORT. Proofs of the statements on loading a program (R302, R256). -/

namespace Sys2Proof

open Sys2Proof.Machine

/-- Settles O46: at the standard entry point the longest image is 3584 bytes, and a longer one is rejected before any change. -/
theorem oversizedLoadLeavesTheStateUntouched : Obligations.OversizedLoadLeavesTheStateUntouched := by
  unfold Obligations.OversizedLoadLeavesTheStateUntouched
  intro s image hentry hlen
  have hlong : maxRom s.config < image.length := by rwa [maxRom_of_standard hentry]
  exact s.applyEvent_loadRom_of_maxRom_lt hlong

end Sys2Proof
end

section
/-! SUPPORT. Rules for the decoder (R95 to R98): the decoder as its dispatch on the fields, the words each dispatch rejects, and the
fields that a row of the opcode map fixes. -/

namespace Sys2Proof

/-! ## The decoder as its dispatch -/

theorem decodeWord_eq_ok_iff {w : Word} {i : Instr} : decodeWord w = .ok i ↔ decodeFields (Fields.ofWord w) = some i := by
  unfold decodeWord
  cases decodeFields (Fields.ofWord w) <;> simp

theorem decodeWord_eq_unknown_iff {w : Word} :
    decodeWord w = .error (.unknownOpcode w) ↔ decodeFields (Fields.ofWord w) = none := by
  unfold decodeWord
  cases decodeFields (Fields.ofWord w) <;> simp

/-- The dispatch reads an instruction back from the fields of its word: an operand is a field, a sub-opcode picks its branch. -/
theorem decodeFields_ofWord_encode (i : Instr) : decodeFields (Fields.ofWord (encode i)) = some i := by
  cases i with
  | op00E0 | op00EE => rfl
  | op1NNN nnn | op2NNN nnn | opANNN nnn | opBNNN nnn => rw [encode, ofWord_packNNN]; rfl
  | op3XNN x nn | op4XNN x nn | op6XNN x nn | op7XNN x nn | opCXNN x nn => rw [encode, ofWord_packXNN]; rfl
  | op5XY0 x y | op9XY0 x y | op8XY0 x y | op8XY1 x y | op8XY2 x y | op8XY3 x y | op8XY4 x y | op8XY5 x y | op8XY6 x y
  | op8XY7 x y | op8XYE x y | opDXYN x y n => rw [encode, ofWord_packXYN]; rfl
  | opEX9E x | opEXA1 x | opFX07 x | opFX0A x | opFX15 x | opFX18 x | opFX1E x | opFX29 x | opFX33 x | opFX55 x
  | opFX65 x => rw [encode, ofWord_packXNN]; rfl

/-- The bytes of an instruction in memory order are its word (R65, R90). -/
theorem decodeBytes_encodeBytes_append {i : Instr} (h : decodeWord (encode i) = .ok i) (rest : List Byte) :
    decodeBytes (encodeBytes i ++ rest) = .ok (i, rest) := by
  simp [encodeBytes, decodeBytes, h]

/-! ## The word from its fields -/

theorem packNNN_of_op {w : Word} {op : BitVec 4} (h : (Fields.ofWord w).op.toNat = op.toNat) :
    packNNN op (Fields.ofWord w).nnn = w := by
  rw [← BitVec.eq_of_toNat_eq h]; exact packNNN_ofWord w

theorem packXNN_of_op {w : Word} {op : BitVec 4} (h : (Fields.ofWord w).op.toNat = op.toNat) :
    packXNN op (Fields.ofWord w).X (Fields.ofWord w).nn = w := by
  rw [← BitVec.eq_of_toNat_eq h]; exact packXNN_ofWord w

theorem packXYN_of_op {w : Word} {op : BitVec 4} (h : (Fields.ofWord w).op.toNat = op.toNat) :
    packXYN op (Fields.ofWord w).X (Fields.ofWord w).Y (Fields.ofWord w).n = w := by
  rw [← BitVec.eq_of_toNat_eq h]; exact packXYN_ofWord w

theorem encode_of_decodeFixed {f : Fields} {i : Instr} (h : decodeFixed f = some i) : encode i = packNNN 0x0 f.nnn := by
  unfold decodeFixed at h
  split_ifs at h with h0 h1
  all_goals obtain rfl := Option.some.inj h
  · rw [h0]; rfl
  · rw [h1]; rfl

theorem encode_of_decodeAlu {f : Fields} {i : Instr} (h : decodeAlu f = some i) :
    encode i = packXYN 0x8 f.X f.Y f.n := by
  unfold decodeAlu at h
  split_ifs at h with hn hn hn hn hn hn hn hn hn
  all_goals
    obtain rfl := Option.some.inj h
    rw [hn]; rfl

theorem encode_of_decodeKey {f : Fields} {i : Instr} (h : decodeKey f = some i) : encode i = packXNN 0xE f.X f.nn := by
  unfold decodeKey at h
  split_ifs at h with hnn hnn
  all_goals
    obtain rfl := Option.some.inj h
    rw [hnn]; rfl

theorem encode_of_decodeMisc {f : Fields} {i : Instr} (h : decodeMisc f = some i) : encode i = packXNN 0xF f.X f.nn := by
  unfold decodeMisc at h
  split_ifs at h with hnn hnn hnn hnn hnn hnn hnn hnn hnn
  all_goals
    obtain rfl := Option.some.inj h
    rw [hnn]; rfl

/-- Every branch of the dispatch keeps all bits of the word: those its format names are operands, the others are the ones it tests. -/
theorem encode_of_decodeFields_ofWord {w : Word} {i : Instr} (h : decodeFields (Fields.ofWord w) = some i) : encode i = w := by
  unfold decodeFields at h
  split at h
  case h_1 hop => exact (encode_of_decodeFixed h).trans (packNNN_of_op hop)
  case h_6 hop | h_10 hop =>
    split_ifs at h with hn
    obtain rfl := Option.some.inj h
    exact (congrArg (packXYN _ _ _) hn.symm).trans (packXYN_of_op hop)
  case h_9 hop => exact (encode_of_decodeAlu h).trans (packXYN_of_op hop)
  case h_15 hop => exact (encode_of_decodeKey h).trans (packXNN_of_op hop)
  case h_16 hop => exact (encode_of_decodeMisc h).trans (packXNN_of_op hop)
  case h_17 => exact absurd h (by simp)
  case h_2 hop | h_3 hop | h_11 hop | h_12 hop => obtain rfl := Option.some.inj h; exact packNNN_of_op hop
  case h_4 hop | h_5 hop | h_7 hop | h_8 hop | h_13 hop => obtain rfl := Option.some.inj h; exact packXNN_of_op hop
  case h_14 hop => obtain rfl := Option.some.inj h; exact packXYN_of_op hop

/-! ## The words no branch reads (R98) -/

theorem decodeFixed_eq_none_iff (f : Fields) : decodeFixed f = none ↔ f.nnn ≠ 0x0E0 ∧ f.nnn ≠ 0x0EE := by
  unfold decodeFixed
  split_ifs <;> simp_all

theorem decodeAlu_eq_none_iff (f : Fields) :
    decodeAlu f = none ↔ f.n.toNat ∈ [0x8, 0x9, 0xA, 0xB, 0xC, 0xD, 0xF] := by
  have hn := f.n.isLt
  simp only [decodeAlu, ← BitVec.toNat_inj]
  generalize f.n.toNat = n at hn ⊢
  interval_cases n <;> simp

theorem decodeKey_eq_none_iff (f : Fields) : decodeKey f = none ↔ f.nn.toNat ∉ [0x9E, 0xA1] := by
  simp only [decodeKey, ← BitVec.toNat_inj]
  split_ifs <;> simp_all

theorem decodeMisc_eq_none_iff (f : Fields) :
    decodeMisc f = none ↔ f.nn.toNat ∉ [0x07, 0x0A, 0x15, 0x18, 0x1E, 0x29, 0x33, 0x55, 0x65] := by
  simp only [decodeMisc, ← BitVec.toNat_inj]
  split_ifs <;> simp_all

/-- The fields no branch of the dispatch reads. -/
theorem decodeFields_eq_none_iff (f : Fields) : decodeFields f = none ↔
    (f.op.toNat = 0x0 ∧ f.nnn ≠ 0x0E0 ∧ f.nnn ≠ 0x0EE) ∨
    (f.op.toNat = 0x5 ∧ f.n.toNat ≠ 0) ∨
    (f.op.toNat = 0x8 ∧ f.n.toNat ∈ [0x8, 0x9, 0xA, 0xB, 0xC, 0xD, 0xF]) ∨
    (f.op.toNat = 0x9 ∧ f.n.toNat ≠ 0) ∨
    (f.op.toNat = 0xE ∧ f.nn.toNat ∉ [0x9E, 0xA1]) ∨
    (f.op.toNat = 0xF ∧ f.nn.toNat ∉ [0x07, 0x0A, 0x15, 0x18, 0x1E, 0x29, 0x33, 0x55, 0x65]) := by
  rw [← decodeFixed_eq_none_iff, ← decodeAlu_eq_none_iff, ← decodeKey_eq_none_iff, ← decodeMisc_eq_none_iff]
  have hop := f.op.isLt
  unfold decodeFields
  generalize f.op.toNat = op at hop ⊢
  interval_cases op <;> simp [← BitVec.toNat_inj]

/-! ## The fields a row fixes (R95) -/

section
variable {v w : Word}

/-- A row with mask `0xF000` fixes the primary nibble. -/
theorem op_eq_of_and_eq (h : w &&& 0xF000 = v &&& 0xF000) : (Fields.ofWord w).op = (Fields.ofWord v).op := by
  rw [← packNNN_ofWord w, ← packNNN_ofWord v, packNNN_and, packNNN_and] at h
  simpa [ofWord_packNNN] using congrArg (fun u => (Fields.ofWord u).op) h

/-- A row with mask `0xF00F` fixes the primary nibble and `N`. -/
theorem op_n_eq_of_and_eq (h : w &&& 0xF00F = v &&& 0xF00F) :
    (Fields.ofWord w).op = (Fields.ofWord v).op ∧ (Fields.ofWord w).n = (Fields.ofWord v).n := by
  rw [← packXYN_ofWord w, ← packXYN_ofWord v, packXYN_and_sub, packXYN_and_sub] at h
  simpa [ofWord_packXYN] using congrArg (fun u => ((Fields.ofWord u).op, (Fields.ofWord u).n)) h

/-- A row with mask `0xF0FF` fixes the primary nibble and `NN`. -/
theorem op_nn_eq_of_and_eq (h : w &&& 0xF0FF = v &&& 0xF0FF) :
    (Fields.ofWord w).op = (Fields.ofWord v).op ∧ (Fields.ofWord w).nn = (Fields.ofWord v).nn := by
  rw [← packXNN_ofWord w, ← packXNN_ofWord v, packXNN_and_sub, packXNN_and_sub] at h
  simpa [ofWord_packXNN] using congrArg (fun u => ((Fields.ofWord u).op, (Fields.ofWord u).nn)) h

end

open Laws.RowSelect in
/-- The law of each instruction's own row, for all instructions. -/
theorem rowSelect : ∀ i : Instr, Statement i
  | .op00E0 => op00E0 | .op00EE => op00EE | .op1NNN a => op1NNN a | .op2NNN a => op2NNN a
  | .op3XNN x b => op3XNN x b | .op4XNN x b => op4XNN x b | .op5XY0 x y => op5XY0 x y
  | .op6XNN x b => op6XNN x b | .op7XNN x b => op7XNN x b
  | .op8XY0 x y => op8XY0 x y | .op8XY1 x y => op8XY1 x y | .op8XY2 x y => op8XY2 x y | .op8XY3 x y => op8XY3 x y
  | .op8XY4 x y => op8XY4 x y | .op8XY5 x y => op8XY5 x y | .op8XY6 x y => op8XY6 x y | .op8XY7 x y => op8XY7 x y
  | .op8XYE x y => op8XYE x y | .op9XY0 x y => op9XY0 x y | .opANNN a => opANNN a | .opBNNN a => opBNNN a
  | .opCXNN x b => opCXNN x b | .opDXYN x y n => opDXYN x y n | .opEX9E x => opEX9E x | .opEXA1 x => opEXA1 x
  | .opFX07 x => opFX07 x | .opFX0A x => opFX0A x | .opFX15 x => opFX15 x | .opFX18 x => opFX18 x | .opFX1E x => opFX1E x
  | .opFX29 x => opFX29 x | .opFX33 x => opFX33 x | .opFX55 x => opFX55 x | .opFX65 x => opFX65 x

/-- A word that the row of some instruction selects is read by the dispatch: the fields the row fixes are the ones tested. -/
theorem decodeFields_ne_none_of_selects {w : Word} {i : Instr} (h : i.row.selects w = true) :
    decodeFields (Fields.ofWord w) ≠ none := by
  have hi : i.row.selects (encode i) = true := (rowSelect i).1
  simp only [OpcodeRow.selects, beq_iff_eq] at h hi
  have heq : w &&& i.row.mask = encode i &&& i.row.mask := h.trans hi.symm
  cases i with
  | op00E0 | op00EE =>
    obtain rfl : w = _ := (BitVec.and_allOnes (x := w)).symm.trans h
    decide
  | op1NNN | op2NNN | op3XNN | op4XNN | op6XNN | op7XNN | opANNN | opBNNN | opCXNN | opDXYN =>
    have hop := op_eq_of_and_eq heq
    simp [decodeFields, hop, encode, ofWord_packNNN, ofWord_packXNN, ofWord_packXYN]
  | op5XY0 | op9XY0 | op8XY0 | op8XY1 | op8XY2 | op8XY3 | op8XY4 | op8XY5 | op8XY6 | op8XY7 | op8XYE =>
    obtain ⟨hop, hn⟩ := op_n_eq_of_and_eq heq
    simp [decodeFields, decodeAlu, hop, hn, encode, ofWord_packXYN]
  | opEX9E | opEXA1 | opFX07 | opFX0A | opFX15 | opFX18 | opFX1E | opFX29 | opFX33 | opFX55 | opFX65 =>
    obtain ⟨hop, hnn⟩ := op_nn_eq_of_and_eq heq
    simp [decodeFields, decodeKey, decodeMisc, hop, hnn, encode, ofWord_packXNN]

/-! ## No word matches two rows (R95) -/

/-- Two rows of the map that agree where both fix a bit are one row. -/
theorem opcodeRows_separated : ∀ r ∈ opcodeRows, ∀ r' ∈ opcodeRows, r.value &&& r'.mask = r'.value &&& r.mask → r = r' := by
  decide

theorem eq_of_selects {r r' : OpcodeRow} (hr : r ∈ opcodeRows) (hr' : r' ∈ opcodeRows) {w : Word}
    (h : r.selects w = true) (h' : r'.selects w = true) : r = r' := by
  simp only [OpcodeRow.selects, beq_iff_eq] at h h'
  refine opcodeRows_separated r hr r' hr' ?_
  rw [← h, ← h', BitVec.and_assoc, BitVec.and_assoc, BitVec.and_comm r.mask]

/-- The map has one row for each kind of instruction. -/
theorem opcodeRows_eq_map_row : opcodeRows = ([.op00E0, .op00EE, .op1NNN 0, .op2NNN 0, .op3XNN 0 0, .op4XNN 0 0, .op5XY0 0 0,
    .op6XNN 0 0, .op7XNN 0 0, .op8XY0 0 0, .op8XY1 0 0, .op8XY2 0 0, .op8XY3 0 0, .op8XY4 0 0, .op8XY5 0 0, .op8XY6 0 0,
    .op8XY7 0 0, .op8XYE 0 0, .op9XY0 0 0, .opANNN 0, .opBNNN 0, .opCXNN 0 0, .opDXYN 0 0 0, .opEX9E 0, .opEXA1 0,
    .opFX07 0, .opFX0A 0, .opFX15 0, .opFX18 0, .opFX1E 0, .opFX29 0, .opFX33 0, .opFX55 0, .opFX65 0] : List Instr).map
      Instr.row := rfl

/-- Every row of the map is the row of some instruction. -/
theorem exists_row_eq {r : OpcodeRow} (h : r ∈ opcodeRows) : ∃ i : Instr, i.row = r := by
  rw [opcodeRows_eq_map_row] at h
  obtain ⟨i, -, hi⟩ := List.mem_map.mp h
  exact ⟨i, hi⟩

end Sys2Proof
end

section
/-! SUPPORT. Proofs of the statements on the encoding (R90 to R98). -/

namespace Sys2Proof

/-- Settles O3: the dispatch reads the word back from its fields, and the two bytes in memory order are that word. -/
theorem decodeOfEncodeIsTheInstruction : Obligations.DecodeOfEncodeIsTheInstruction := by
  unfold Obligations.DecodeOfEncodeIsTheInstruction
  intro i
  have hword : decodeWord (encode i) = .ok i := decodeWord_eq_ok_iff.mpr (decodeFields_ofWord_encode i)
  exact ⟨hword, decodeBytes_encodeBytes_append hword⟩

/-- Settles O4: every branch of the dispatch encodes back to the word it read. -/
theorem encodeOfDecodeIsTheWord : Obligations.EncodeOfDecodeIsTheWord := by
  unfold Obligations.EncodeOfDecodeIsTheWord
  intro w i h
  exact encode_of_decodeFields_ofWord (decodeWord_eq_ok_iff.mp h)

/-- Settles O5: a decoded word is the word of its instruction, so that one's row selects it; a row that selects a word fixes the
fields the dispatch tests; and two rows that select one word are the same row. -/
theorem wordDecodesExactlyWhenOneRowSelectsIt : Obligations.WordDecodesExactlyWhenOneRowSelectsIt := by
  unfold Obligations.WordDecodesExactlyWhenOneRowSelectsIt
  have hrow : ∀ {w : Word} {i : Instr}, decodeWord w = .ok i → i.row.selects w = true ∧ i.row ∈ opcodeRows := by
    intro w i h
    obtain ⟨hselects, hmem, -⟩ := rowSelect i
    rw [encodeOfDecodeIsTheWord w i h] at hselects
    exact ⟨hselects, hmem⟩
  refine ⟨fun w => ⟨fun ⟨i, h⟩ => ⟨i.row, (hrow h).symm⟩, fun ⟨r, hr, hselects⟩ => ?_⟩, fun w i h => ?_⟩
  · obtain ⟨i, rfl⟩ := exists_row_eq hr
    obtain ⟨j, hj⟩ := Option.ne_none_iff_exists'.mp (decodeFields_ne_none_of_selects hselects)
    exact ⟨j, decodeWord_eq_ok_iff.mpr hj⟩
  · obtain ⟨hselects, hmem⟩ := hrow h
    exact ⟨hmem, fun r hr => ⟨fun hsel => eq_of_selects hr hmem hsel hselects, fun heq => heq ▸ hselects⟩⟩

/-- Settles O6: the dispatch reads no instruction exactly on the fields listed, and each field is its slice of the word. -/
theorem unknownWordsAreExactlyTheListedOnes : Obligations.UnknownWordsAreExactlyTheListedOnes := by
  unfold Obligations.UnknownWordsAreExactlyTheListedOnes
  intro w
  rw [decodeWord_eq_unknown_iff, decodeFields_eq_none_iff, ofWord_op_toNat, ofWord_n_toNat, ofWord_nn_toNat]
  refine or_congr (and_congr_right fun hop => ?_) Iff.rfl
  simp only [ne_eq, ← BitVec.toNat_inj, ofWord_nnn_toNat, BitVec.ofNat_eq_ofNat, BitVec.toNat_ofNat]
  omega

/-- Settles O1: by evaluation of the decoder on the eight words. -/
theorem specWordsDecodeAsWritten : Obligations.SpecWordsDecodeAsWritten := by
  unfold Obligations.SpecWordsDecodeAsWritten
  decide

end Sys2Proof
end

section
/-! SUPPORT. Rules for the execute stage (R123 to R125): what an instruction that completes can do, and which fault the others raise. -/

namespace Sys2Proof

namespace Machine

/-! ## Frames -/

theorem SameElement.trans {s t u : State} {e : Element} (h : SameElement s t e) (h' : SameElement t u e) :
    SameElement s u e := by
  cases e with
  | mem | V => exact fun a => (h' a).trans (h a)
  | _ => exact Eq.trans h' h

/-- Two changes in a row change at most what either may. -/
theorem ChangesOnly.trans {es : List Element} {s t u : State} (h : ChangesOnly es s t) (h' : ChangesOnly es t u) :
    ChangesOnly es s u := by
  obtain ⟨hsame, hconfig, hpending⟩ := h
  obtain ⟨hsame', hconfig', hpending'⟩ := h'
  exact ⟨fun e he => (hsame e he).trans (hsame' e he), hconfig'.trans hconfig, hpending'.trans hpending⟩

/-- A write of the generator state adds `rng` to what has changed. -/
theorem ChangesOnly.setRng {es : List Element} {s t : State} (h : ChangesOnly es s t) (g : Nat) :
    ChangesOnly (.rng :: es) s (t.setRng g) := by
  refine h.cons (fun e he hsame => ?_) rfl rfl
  cases e with
  | rng => exact absurd rfl he
  | _ => exact hsame

/-- A write of `run_state` adds `runState` to what has changed. -/
theorem ChangesOnly.setRunState {es : List Element} {s t : State} (h : ChangesOnly es s t) (r : RunState) :
    ChangesOnly (.runState :: es) s (t.setRunState r) := by
  refine h.cons (fun e he hsame => ?_) rfl rfl
  cases e with
  | runState => exact absurd rfl he
  | _ => exact hsame

/-! ## Completing or raising -/

/-- The fault instruction `i` raises in state `s`, and the address recorded with it (R125, R69). -/
def Raises (i : Instr) (s : State) (kind : FaultKind) (info : Option Nat) : Prop :=
  match i with
  | .op2NNN _ => kind = .stackOverflow ∧ info = none ∧ s.SP.val = 16
  | .op00EE => kind = .stackUnderflow ∧ info = none ∧ s.SP.val = 0
  | .opDXYN _ _ _ | .opFX33 _ | .opFX55 _ | .opFX65 _ =>
    kind = .memoryOutOfBounds ∧ info = some (max s.I.toNat 0x1000) ∧ s.config.boundsPolicy = .fatal
  | _ => False

/-- What an instruction that raises no fault can do from `s` to `t`. -/
structure Completes (i : Instr) (s t : State) : Prop where
  /-- It writes only the elements its rule names. -/
  frame : ChangesOnly (instrWrites i) s t
  memCanonical : Memory.wf s.config.fontData s.mem = true → Memory.wf s.config.fontData t.mem = true
  /-- `pc` stays, skips, is `NNN` plus a byte, or is a stack slot. -/
  pc_cases : t.pc = s.pc ∨ t.pc = s.pc + 2 ∨ (∃ nnn b, t.pc = zextAddr nnn + zextByte b) ∨ ∃ k : Fin 16, t.pc = s.stack[k]
  /-- At most one slot is written, with the address after the instruction. -/
  stack_cases : t.stack = s.stack ∨ ∃ k : Fin 16, t.stack = s.stack.set k s.pc
  runState_cases : t.runState = s.runState ∨ ∃ x, t.runState = .waitKey x

/-- An instruction that leaves memory, the call stack and `run_state` alone and does not mention `pc`. -/
theorem Completes.of_kept {i : Instr} {s t : State} (hframe : ChangesOnly (instrWrites i) s t) (hmem : t.mem = s.mem)
    (hpc : t.pc = s.pc) (hstack : t.stack = s.stack) (hrun : t.runState = s.runState) : Completes i s t :=
  ⟨hframe, fun h => hmem ▸ h, .inl hpc, .inl hstack, .inl hrun⟩

namespace State

variable (s : State)

/-- A skip completes every instruction that may write `pc` alone (R127). -/
theorem skipIf_completes {i : Instr} (c : Bool) (hi : instrWrites i = [.pc]) : Completes i s (s.skipIf c) where
  frame := hi ▸ s.changesOnly_skipIf c
  memCanonical h := by rwa [skipIf_mem]
  pc_cases := by cases c <;> simp
  stack_cases := .inl (s.skipIf_stack c)
  runState_cases := .inl (s.skipIf_runState c)

/-- The two ways an instruction with data addresses from `I` on answers. -/
theorem guardRange_dataAddr_cases (i : Instr) (count : Nat) (k : Result) :
    s.guardRange i (s.dataAddr 0) count k = k ∨ (s.config.boundsPolicy = .fatal ∧
      s.guardRange i (s.dataAddr 0) count k = s.raise .memoryOutOfBounds i (some (max s.I.toNat 0x1000))) := by
  by_cases hrange : s.dataInRange count
  · exact .inl (s.guardRange_of_dataInRange hrange)
  · simp only [dataInRange, not_or, not_le] at hrange
    obtain ⟨hpolicy, hcount, hout⟩ := hrange
    have hfatal : s.config.boundsPolicy = .fatal := by cases h : s.config.boundsPolicy <;> simp_all
    exact .inr ⟨hfatal, s.guardRange_of_some (hfatal ▸ outOfBounds_fatal_some hcount hout)⟩

/-- The answer of a checked instruction, from what it does after the check. -/
theorem guardRange_completes_or_raises {i : Instr} {count : Nat} {t : State}
    (hraises : s.config.boundsPolicy = .fatal → Raises i s .memoryOutOfBounds (some (max s.I.toNat 0x1000)))
    (h : Completes i s t) :
    (∃ u, s.guardRange i (s.dataAddr 0) count (.next t) = .next u ∧ Completes i s u) ∨
      ∃ kind info, Raises i s kind info ∧ s.guardRange i (s.dataAddr 0) count (.next t) = s.raise kind i info := by
  rcases s.guardRange_dataAddr_cases i count (.next t) with hnext | ⟨hfatal, hraise⟩
  · exact .inl ⟨t, hnext, h⟩
  · exact .inr ⟨_, _, hraises hfatal, hraise⟩

theorem memWriteList_completes {i : Instr} (a : Nat) (bs : List Byte) (hi : instrWrites i = [.mem]) :
    Completes i s (s.memWriteList a bs) where
  frame := hi ▸ s.changesOnly_memWriteList a bs
  memCanonical := memWriteList_wf bs s a
  pc_cases := .inl (by rw [memWriteList_eq])
  stack_cases := .inl (by rw [memWriteList_eq])
  runState_cases := .inl (by rw [memWriteList_eq])

theorem loadRegs_completes {i : Instr} (a : Nat) (is : List Nibble) (hi : instrWrites i = [.V]) :
    Completes i s (s.loadRegs a is) :=
  .of_kept (hi ▸ s.changesOnly_loadRegs a is) (by rw [loadRegs_eq]) (by rw [loadRegs_eq]) (by rw [loadRegs_eq])
    (by rw [loadRegs_eq])

/-- A return pops a slot into `pc`, or raises on an empty stack (R140). -/
theorem exec_op00EE_cases : (∃ t, exec .op00EE s = .next t ∧ Completes .op00EE s t) ∨
    ∃ kind info, Raises .op00EE s kind info ∧ exec .op00EE s = s.raise kind .op00EE info := by
  rcases Nat.eq_zero_or_pos s.SP.val with hempty | hpos
  · exact .inr ⟨_, _, ⟨rfl, rfl, hempty⟩, s.exec_op00EE_of_empty hempty⟩
  · obtain ⟨a, t, hpop, -, -, hframe⟩ := s.pop_spec hpos
    refine .inl ⟨t.setPc a, s.exec_op00EE_of_pop hpop, ?_⟩
    obtain ⟨_, rfl, rfl⟩ := s.pop_cases hpop
    exact ⟨hframe.setPc _, id, .inr (.inr (.inr ⟨⟨s.SP.val - 1, by omega⟩, rfl⟩)), .inl rfl, .inl rfl⟩

/-- A call pushes `pc` and jumps, or raises on a full stack (R142). -/
theorem exec_op2NNN_cases (nnn : BitVec 12) :
    (∃ t, exec (.op2NNN nnn) s = .next t ∧ Completes (.op2NNN nnn) s t) ∨
      ∃ kind info, Raises (.op2NNN nnn) s kind info ∧ exec (.op2NNN nnn) s = s.raise kind (.op2NNN nnn) info := by
  rcases Nat.lt_or_eq_of_le (Nat.le_of_lt_succ s.SP.isLt) with hlt | hfull
  · obtain ⟨t, hpush, -, -, -, hframe⟩ := s.push_spec s.pc hlt
    refine .inl ⟨t.setPc (zextAddr nnn), s.exec_op2NNN_of_push nnn hpush, ?_⟩
    obtain ⟨_, rfl⟩ := s.push_cases hpush
    exact ⟨hframe.setPc _, id, .inr (.inr (.inl ⟨nnn, 0, (BitVec.add_zero _).symm⟩)), .inr ⟨⟨s.SP.val, hlt⟩, rfl⟩, .inl rfl⟩
  · exact .inr ⟨_, _, ⟨rfl, rfl, hfull⟩, s.exec_op2NNN_of_full nnn hfull⟩

/-- Every instruction completes, or raises its own fault (R123, R125). -/
theorem exec_cases (i : Instr) : (∃ t, exec i s = .next t ∧ Completes i s t) ∨
    ∃ kind info, Raises i s kind info ∧ exec i s = s.raise kind i info := by
  have hrefl := changesOnly_refl s
  cases i with
  | op00EE => exact s.exec_op00EE_cases
  | op2NNN nnn => exact s.exec_op2NNN_cases nnn
  | op1NNN nnn =>
    exact .inl ⟨_, rfl, hrefl.setPc _, id, .inr (.inr (.inl ⟨nnn, 0, (BitVec.add_zero _).symm⟩)), .inl rfl, .inl rfl⟩
  | opBNNN nnn => exact .inl ⟨_, rfl, hrefl.setPc _, id, .inr (.inr (.inl ⟨nnn, _, rfl⟩)), .inl rfl, .inl rfl⟩
  | op3XNN | op4XNN | op5XY0 | op9XY0 | opEX9E | opEXA1 => exact .inl ⟨_, rfl, s.skipIf_completes _ rfl⟩
  | op6XNN | op7XNN | op8XY0 | op8XY1 | op8XY2 | op8XY3 | opFX07 =>
    exact .inl ⟨_, rfl, .of_kept (hrefl.setV _ _) rfl rfl rfl rfl⟩
  | op8XY4 | op8XY5 | op8XY6 | op8XY7 | op8XYE =>
    exact .inl ⟨_, rfl, .of_kept (((hrefl.setV _ _).setV _ _).mono (by simp [instrWrites])) rfl rfl rfl rfl⟩
  | opCXNN => exact .inl ⟨_, rfl, .of_kept ((hrefl.setRng _).setV _ _) rfl rfl rfl rfl⟩
  | op00E0 => exact .inl ⟨_, rfl, .of_kept (hrefl.setFb _) rfl rfl rfl rfl⟩
  | opANNN | opFX1E | opFX29 => exact .inl ⟨_, rfl, .of_kept (hrefl.setI _) rfl rfl rfl rfl⟩
  | opFX15 => exact .inl ⟨_, rfl, .of_kept (hrefl.setDT _) rfl rfl rfl rfl⟩
  | opFX18 => exact .inl ⟨_, rfl, .of_kept (hrefl.setST _) rfl rfl rfl rfl⟩
  | opFX0A x => exact .inl ⟨_, rfl, hrefl.setRunState _, id, .inl rfl, .inl rfl, .inr ⟨x, rfl⟩⟩
  | opDXYN =>
    exact s.guardRange_completes_or_raises (fun hfatal => ⟨rfl, rfl, hfatal⟩)
      (.of_kept (((hrefl.setFb _).setV _ _).mono (by simp [instrWrites])) rfl rfl rfl rfl)
  | opFX33 | opFX55 =>
    exact s.guardRange_completes_or_raises (fun hfatal => ⟨rfl, rfl, hfatal⟩) (s.memWriteList_completes _ _ rfl)
  | opFX65 =>
    exact s.guardRange_completes_or_raises (fun hfatal => ⟨rfl, rfl, hfatal⟩) (s.loadRegs_completes _ _ rfl)

/-- An instruction answers a next state. -/
theorem exec_eq_next (i : Instr) : ∃ t, exec i s = .next t := by
  rcases s.exec_cases i with ⟨t, ht, -⟩ | ⟨kind, info, -, hr⟩
  · exact ⟨t, ht⟩
  · exact ⟨_, hr⟩

/-- The same from an answer. -/
theorem exec_next_cases {i : Instr} {t : State} (h : exec i s = .next t) : Completes i s t ∨
    ∃ kind info, Raises i s kind info ∧ t = s.takeFault kind (s.pc - 2) (some (encode i)) info := by
  rcases s.exec_cases i with ⟨u, hu, hcompletes⟩ | ⟨kind, info, hraises, hr⟩
  · obtain rfl := Host.Outcome.next.inj (hu.symm.trans h)
    exact .inl hcompletes
  · exact .inr ⟨kind, info, hraises, (Host.Outcome.next.inj (hr.symm.trans h)).symm⟩

end State

end Machine

end Sys2Proof
end

section
/-! SUPPORT. Proofs of the statements on the execute stage (R123, R125, R37). -/

namespace Sys2Proof

open Sys2Proof.Machine

/-- Settles O50: an instruction completes within its frame, or is the fault of the state before fetch. -/
theorem instructionsWriteOnlyTheirElements : Obligations.InstructionsWriteOnlyTheirElements := by
  unfold Obligations.InstructionsWriteOnlyTheirElements
  intro i s t h
  rcases s.exec_next_cases h with hcompletes | ⟨kind, info, -, rfl⟩
  · exact .inl hcompletes.frame
  · exact .inr ⟨kind, info, rfl⟩

/-- Settles O52: an instruction that completes leaves an unfaulted machine unfaulted, and one that raises a fault raises its own. -/
theorem instructionsRaiseOnlyTheirFault : Obligations.InstructionsRaiseOnlyTheirFault := by
  unfold Obligations.InstructionsRaiseOnlyTheirFault
  intro i s t r hunfaulted h hfaulted
  rcases s.exec_next_cases h with hcompletes | ⟨kind, info, hraises, rfl⟩
  · rcases hcompletes.runState_cases with hkept | ⟨x, hwait⟩
    · exact absurd (hkept.symm.trans hfaulted) (hunfaulted r)
    · exact absurd (hwait.symm.trans hfaulted) (by simp)
  · obtain rfl := RunState.faulted.inj hfaulted
    cases i with
    | op2NNN nnn =>
      obtain ⟨rfl, -, hfull⟩ := hraises
      exact .inl ⟨rfl, hfull, nnn, rfl⟩
    | op00EE =>
      obtain ⟨rfl, -, hempty⟩ := hraises
      exact .inr (.inl ⟨rfl, hempty, rfl⟩)
    | opDXYN | opFX33 | opFX55 | opFX65 =>
      obtain ⟨rfl, rfl, hfatal⟩ := hraises
      exact .inr (.inr ⟨rfl, hfatal, rfl, by simp⟩)
    | _ => exact hraises.elim

end Sys2Proof
end

section
/-! SUPPORT. Rules for the events (`60_exceptions.md`, `70_reset_and_hazards.md`): what a key update and a load can do, the frame of
every event, and what an instruction tick can do. -/

namespace Sys2Proof

namespace Machine

/-! ## Frames -/

/-- A write of the keys adds `key` to what has changed. -/
theorem ChangesOnly.setKey {es : List Element} {s t : State} (h : ChangesOnly es s t) (k : Keys) :
    ChangesOnly (.key :: es) s (t.setKey k) := by
  refine h.cons (fun e he hsame => ?_) rfl rfl
  cases e with
  | key => exact absurd rfl he
  | _ => exact hsame

/-- A write of the pause bit adds `paused` to what has changed. -/
theorem ChangesOnly.setPaused {es : List Element} {s t : State} (h : ChangesOnly es s t) (p : Bool) :
    ChangesOnly (.paused :: es) s (t.setPaused p) := by
  refine h.cons (fun e he hsame => ?_) rfl rfl
  cases e with
  | paused => exact absurd rfl he
  | _ => exact hsame

/-- A replacement of memory adds `mem` to what has changed. -/
theorem ChangesOnly.setMem {es : List Element} {s t : State} (h : ChangesOnly es s t) (m : Memory) :
    ChangesOnly (.mem :: es) s (t.setMem m) := by
  refine h.cons (fun e he hsame => ?_) rfl rfl
  cases e with
  | mem => exact absurd rfl he
  | _ => exact hsame

namespace State

variable (s : State)

/-! ## Key updates (R233, R263) -/

theorem keyUpdate_of_not_waiting {keys : Keys} (h : ∀ x, s.runState ≠ .waitKey x) : s.keyUpdate keys = s.setKey keys := by
  unfold keyUpdate resolveWait
  split
  · rename_i x hx; exact absurd hx (h x)
  · rfl

theorem keyUpdate_of_no_new_key {keys : Keys} (h : lowestNewKey s.key keys = none) : s.keyUpdate keys = s.setKey keys := by
  unfold keyUpdate resolveWait
  rw [h]
  split <;> rfl

theorem keyUpdate_of_new_key {keys : Keys} {x k : Nibble} (hx : s.runState = .waitKey x)
    (hk : lowestNewKey s.key keys = some k) :
    s.keyUpdate keys = ((s.setV x (keyValue k)).setRunState .running).setKey keys := by
  simp only [keyUpdate, resolveWait, hx, hk]

/-- Everything a key update can be. -/
theorem keyUpdate_cases (keys : Keys) : s.keyUpdate keys = s.setKey keys ∨
    ∃ x b, s.keyUpdate keys = ((s.setV x b).setRunState .running).setKey keys := by
  cases hk : lowestNewKey s.key keys with
  | none => exact .inl (s.keyUpdate_of_no_new_key hk)
  | some k =>
    by_cases hwait : ∃ x, s.runState = .waitKey x
    · obtain ⟨x, hx⟩ := hwait
      exact .inr ⟨x, _, s.keyUpdate_of_new_key hx hk⟩
    · exact .inl (s.keyUpdate_of_not_waiting (not_exists.mp hwait))

/-! ## Loading a program (R301, R303) -/

/-- The state after an accepted load (R301). -/
def loaded (image : List Byte) : State :=
  ((s.setMem (s.loadedMem image)).setPc (BitVec.ofNat 16 s.config.entryPoint.addr)).setRunState .running

theorem loadRom_of_le_maxRom {image : List Byte} (h : image.length ≤ maxRom s.config) :
    s.loadRom image = (s.loaded image, .ok) := if_neg (Nat.not_lt.mpr h)

theorem changesOnly_loaded (image : List Byte) : ChangesOnly [.mem, .pc, .runState] s (s.loaded image) :=
  ((((changesOnly_refl s).setMem _).setPc _).setRunState .running).mono (by simp)

/-! ## The instruction tick (R120 to R124) -/

theorem instrTick_of_runs {i : Instr} (h : s.runs i) : s.instrTick = exec i s.advancePc := by
  obtain ⟨henabled, hfetchable, hdecode⟩ := h
  rw [s.instrTick_of_enabled henabled, s.cycle_of_fetchable hfetchable, s.decodeExecute_of_ok hdecode]

/-- A fault in the execute stage takes `pc` back to the instruction's address, so that `run_state` alone changes (R124). -/
theorem takeFault_advancePc (kind : FaultKind) (word : Option Word) (info : Option Nat) :
    s.advancePc.takeFault kind (s.advancePc.pc - 2) word info = s.setRunState (.faulted ⟨kind, s.pc, word, info⟩) := by
  rw [advancePc_pc, BitVec.add_sub_cancel]; rfl

end State

theorem Raises.ne_pcOutOfBounds {i : Instr} {s : State} {kind : FaultKind} {info : Option Nat}
    (h : Raises i s kind info) : kind ≠ .pcOutOfBounds := by
  cases i with
  | op2NNN | op00EE | opDXYN | opFX33 | opFX55 | opFX65 => obtain ⟨rfl, -, -⟩ := h; simp
  | _ => exact h.elim

/-- The record of a fault an instruction raises is sound (R34). -/
theorem Raises.sound {i : Instr} {s : State} {kind : FaultKind} {info : Option Nat}
    (h : Raises i s kind info) (pc w : Word) : FaultRecord.sound ⟨kind, pc, some w, info⟩ := by
  cases i with
  | op2NNN | op00EE | opDXYN | opFX33 | opFX55 | opFX65 => obtain ⟨rfl, rfl, -⟩ := h; simp [FaultRecord.sound]
  | _ => exact h.elim

/-- The fault a tick in state `s` records: sound, and with the fetched word unless there is none (R34, R124). -/
structure TickFault (s : State) (r : FaultRecord) : Prop where
  sound : r.sound
  pc_eq : r.pc = s.pc
  word_eq : r.word = if r.kind = .pcOutOfBounds then none else some s.fetchWord

namespace State

variable (s : State)

/-- Everything an instruction tick can be: nothing, a fault with nothing else changed, or an instruction that completes. -/
theorem instrTick_next_cases {t : State} (h : s.instrTick = .next t) :
    (s.enabled = false ∧ t = s) ∨
    (∃ r, TickFault s r ∧ t = s.setRunState (.faulted r)) ∨
    ∃ i, s.runs i ∧ Completes i s.advancePc t := by
  rcases s.instrTick_cases h with ⟨hoff, ht⟩ | ⟨-, -, ht⟩ | ⟨-, -, ht⟩ | ⟨i, henabled, hfetchable, hdecode, ht⟩
  · exact .inl ⟨hoff, Host.Outcome.next.inj ht⟩
  · exact .inr (.inl ⟨⟨.pcOutOfBounds, s.pc, none, none⟩, ⟨by simp [FaultRecord.sound], rfl, rfl⟩, Host.Outcome.next.inj ht⟩)
  · exact .inr (.inl ⟨⟨.unknownOpcode, s.pc, some s.fetchWord, none⟩, ⟨by simp [FaultRecord.sound], rfl, rfl⟩,
      Host.Outcome.next.inj ht⟩)
  · rcases s.advancePc.exec_next_cases ht.symm with hcompletes | ⟨kind, info, hraises, rfl⟩
    · exact .inr (.inr ⟨i, ⟨henabled, hfetchable, hdecode⟩, hcompletes⟩)
    · have hword : encode i = s.fetchWord := encodeOfDecodeIsTheWord _ _ hdecode
      refine .inr (.inl ⟨⟨kind, s.pc, some (encode i), info⟩, ⟨hraises.sound _ _, rfl, ?_⟩, s.takeFault_advancePc _ _ _⟩)
      rw [if_neg hraises.ne_pcOutOfBounds, hword]

theorem changesOnly_advancePc : ChangesOnly [.pc] s s.advancePc := (changesOnly_refl s).setPc _

theorem instrWrites_subset (i : Instr) : instrWrites i ⊆ eventWrites .instrTick := by
  cases i <;> simp [instrWrites, eventWrites]

/-- The frame of the instruction tick is the union of the instructions' frames, `pc` and `run_state`. -/
theorem changesOnly_instrTick {t : State} (h : s.instrTick = .next t) : ChangesOnly (eventWrites .instrTick) s t := by
  rcases s.instrTick_next_cases h with ⟨-, rfl⟩ | ⟨r, -, rfl⟩ | ⟨i, -, hcompletes⟩
  · exact (changesOnly_refl t).mono (by simp)
  · exact ((changesOnly_refl s).setRunState _).mono (by simp [eventWrites])
  · exact (s.changesOnly_advancePc.mono (by simp [eventWrites])).trans (hcompletes.frame.mono (instrWrites_subset i))

theorem changesOnly_keyUpdate (keys : Keys) : ChangesOnly [.key, .V, .runState] s (s.keyUpdate keys) := by
  rcases s.keyUpdate_cases keys with h | ⟨x, b, h⟩
  · rw [h]; exact ((changesOnly_refl s).setKey keys).mono (by simp)
  · rw [h]; exact ((((changesOnly_refl s).setV x b).setRunState .running).setKey keys).mono (by simp)

theorem changesOnly_loadRom (image : List Byte) : ChangesOnly [.mem, .pc, .runState] s (s.loadRom image).1 := by
  rcases Nat.lt_or_ge (maxRom s.config) image.length with hlong | hfits
  · rw [s.loadRom_of_maxRom_lt hlong]; exact (changesOnly_refl s).mono (by simp)
  · rw [s.loadRom_of_le_maxRom hfits]; exact s.changesOnly_loaded image

theorem changesOnly_resetEvent : ChangesOnly (eventWrites .reset) s s.resetEvent := by
  refine ⟨fun e he => absurd ?_ he, rfl, rfl⟩
  cases e <;> simp [eventWrites]

theorem changesOnly_timerTick : ChangesOnly [.DT, .ST] s s.timerTick :=
  (((changesOnly_refl s).setDT _).setST _).mono (by simp)

/-- Each event has its frame (R37; `V` for `Reset`, log 33). -/
theorem changesOnly_applyEvent {e : Event} {t : State} (h : s.applyEvent e = .next t) :
    ChangesOnly (eventWrites e) s t := by
  cases e with
  | instrTick => exact s.changesOnly_instrTick h
  | timerTick => obtain rfl := Host.Outcome.next.inj h; exact s.changesOnly_timerTick
  | keyUpdate keys => obtain rfl := Host.Outcome.next.inj h; exact s.changesOnly_keyUpdate keys
  | reset => obtain rfl := Host.Outcome.next.inj h; exact s.changesOnly_resetEvent
  | loadRom image => obtain rfl := Host.Outcome.next.inj h; exact s.changesOnly_loadRom image
  | pause | resume => obtain rfl := Host.Outcome.next.inj h; exact (changesOnly_refl s).setPaused _
  | snapshot => obtain rfl := Host.Outcome.next.inj h; exact changesOnly_refl s

/-- An event answers a next state. -/
theorem applyEvent_eq_next (e : Event) : ∃ t, s.applyEvent e = .next t := by
  cases e with
  | instrTick =>
    rcases s.instrTick_cases rfl with ⟨-, ht⟩ | ⟨-, -, ht⟩ | ⟨-, -, ht⟩ | ⟨i, -, -, -, ht⟩
    · exact ⟨_, ht⟩
    · exact ⟨_, ht⟩
    · exact ⟨_, ht⟩
    · obtain ⟨t, hexec⟩ := s.advancePc.exec_eq_next i
      exact ⟨t, ht.trans hexec⟩
  | _ => exact ⟨_, rfl⟩

end State

end Machine

end Sys2Proof
end

section
/-! SUPPORT. Proofs of the statements on the step and its events (R120 to R124, R259, R270, R37). -/

namespace Sys2Proof

open Sys2Proof.Machine

/-- Settles O7: the two bytes are the word fetched, so the tick is the cycle on a decoded word. -/
theorem stepRunsTheDecodedInstruction : Obligations.StepRunsTheDecodedInstruction := by
  unfold Obligations.StepRunsTheDecodedInstruction
  intro s i hrun hpaused hpc hbytes
  have hdecode : decodeWord s.fetchWord = .ok i := by
    simp only [decodeBytes] at hbytes
    split at hbytes
    · rename_i j hj
      obtain ⟨rfl, -⟩ := Prod.mk.inj (Except.ok.inj hbytes)
      exact hj
    · simp at hbytes
  have hruns : s.runs i := ⟨s.enabled_iff.mpr ⟨hrun, hpaused⟩, s.fetchable_iff.mpr hpc, hdecode⟩
  refine ⟨fun hnil => (s.step_of_nil hnil).trans (s.instrTick_of_runs hruns), fun rest hcons => ?_⟩
  exact (s.step_of_cons hcons).trans ((s.setPending rest).instrTick_of_runs hruns)

/-- Settles O8: the two cases of the step's law. -/
theorem stepAppliesTheOldestWaitingEvent : Obligations.StepAppliesTheOldestWaitingEvent := by
  unfold Obligations.StepAppliesTheOldestWaitingEvent
  intro s
  exact ⟨s.step_of_nil, fun e rest hcons => s.step_of_cons hcons⟩

/-- Settles O9: enabled or not, fetchable or not, decoded or not, by the laws of the tick. -/
theorem instrTickRunsOneCycleOnlyWhenEnabled : Obligations.InstrTickRunsOneCycleOnlyWhenEnabled := by
  unfold Obligations.InstrTickRunsOneCycleOnlyWhenEnabled
  intro s
  refine ⟨fun hrun hpaused => ?_, fun hoff => s.instrTick_of_not_enabled ?_⟩
  · have henabled : s.enabled = true := s.enabled_iff.mpr ⟨hrun, hpaused⟩
    refine ⟨fun hpc => s.fetchFaults_of_lt_pc hpc hrun hpaused, fun hpc => ?_⟩
    have hfetchable : s.fetchable = true := s.fetchable_iff.mpr hpc
    refine ⟨fun i hi => s.instrTick_of_runs ⟨henabled, hfetchable, hi⟩, fun e he => ?_⟩
    exact ⟨_, rfl, (s.instrTick_of_enabled henabled).trans
      ((s.cycle_of_fetchable hfetchable).trans (s.decodeExecute_of_error he))⟩
  · rw [← Bool.not_eq_true, s.enabled_iff]
    rintro ⟨hrun, hpaused⟩
    exact hoff.elim (fun h => h hrun) (fun h => by simp [hpaused] at h)

/-- Settles O10: a word no row selects is decoded to no instruction, and either fault is taken with `pc` unchanged. -/
theorem fetchAndDecodeFaultsAreRecorded : Obligations.FetchAndDecodeFaultsAreRecorded := by
  unfold Obligations.FetchAndDecodeFaultsAreRecorded
  intro s hrun hpaused
  have htick : s.applyEvent .instrTick = s.cycle := s.instrTick_of_enabled (s.enabled_iff.mpr ⟨hrun, hpaused⟩)
  refine ⟨fun hpc => ?_, fun hpc hrows => ?_⟩
  · exact htick.trans (s.cycle_of_not_fetchable (by simp [State.fetchable, hpc]))
  · obtain ⟨e, he⟩ : ∃ e, decodeWord s.fetchWord = .error e := by
      cases h : decodeWord s.fetchWord with
      | error e => exact ⟨e, rfl⟩
      | ok i =>
        obtain ⟨r, hr, hselects⟩ := (wordDecodesExactlyWhenOneRowSelectsIt.1 s.fetchWord).mp ⟨i, h⟩
        exact absurd ((hrows r hr).symm.trans hselects) (by simp)
    exact htick.trans ((s.cycle_of_fetchable (s.fetchable_iff.mpr hpc)).trans (s.decodeExecute_of_error he))

/-- Settles O11: a faulted machine is not enabled, not waiting for a key, and rejects the load. -/
theorem faultedMachineStaysFaulted : Obligations.FaultedMachineStaysFaulted := by
  unfold Obligations.FaultedMachineStaysFaulted
  intro s r e hfaulted hreset hload
  have hrefl := changesOnly_refl s
  cases e with
  | instrTick =>
    have hoff : s.enabled = false := by simp [State.enabled, hfaulted]
    exact ⟨s, s.instrTick_of_not_enabled hoff, hfaulted, hrefl.mono (by simp)⟩
  | timerTick => exact ⟨_, rfl, hfaulted, s.changesOnly_timerTick.mono (by simp)⟩
  | keyUpdate keys =>
    have hkeys : s.keyUpdate keys = s.setKey keys := s.keyUpdate_of_not_waiting (by simp [hfaulted])
    exact ⟨_, congrArg Host.Outcome.next hkeys, hfaulted, (hrefl.setKey keys).mono (by simp)⟩
  | reset => exact absurd rfl hreset
  | loadRom image =>
    exact ⟨s, (s.applyEvent_loadRom_of_maxRom_lt (hload image rfl)).1, hfaulted, hrefl.mono (by simp)⟩
  | pause | resume => exact ⟨_, rfl, hfaulted, (hrefl.setPaused _).mono (by simp)⟩
  | snapshot => exact ⟨s, rfl, hfaulted, hrefl.mono (by simp)⟩

/-- Settles O49: every instruction completes or takes its fault, and every event answers a next state. -/
theorem everyInstructionAndStepHasANextState : Obligations.EveryInstructionAndStepHasANextState := by
  unfold Obligations.EveryInstructionAndStepHasANextState
  refine ⟨fun i s => s.exec_eq_next i, fun s => ?_⟩
  exact State.applyEvent_eq_next s.takeEvent.2 s.takeEvent.1

/-- Settles O51: event by event, with the tick's frame the union of the instructions' frames. -/
theorem eventsWriteOnlyTheirElements : Obligations.EventsWriteOnlyTheirElements := by
  unfold Obligations.EventsWriteOnlyTheirElements
  intro e s t h
  exact s.changesOnly_applyEvent h

/-- Settles O53: a tick that ends faulted took a fault, for an instruction that completes leaves a running machine running or
waiting. -/
theorem faultsArePrecise : Obligations.FaultsArePrecise := by
  unfold Obligations.FaultsArePrecise
  intro s t r henabled htick hfaulted
  have hrunning : s.runState = .running := (s.enabled_iff.mp henabled).1
  rcases s.instrTick_next_cases htick with ⟨hoff, -⟩ | ⟨r', hfault, rfl⟩ | ⟨i, -, hcompletes⟩
  · exact absurd (hoff.symm.trans henabled) (by simp)
  · obtain rfl := RunState.faulted.inj hfaulted
    exact ⟨rfl, hfault.pc_eq, hfault.word_eq⟩
  · rcases hcompletes.runState_cases with hkept | ⟨x, hwait⟩
    · exact absurd (hfaulted.symm.trans (hkept.trans hrunning)) (by simp)
    · exact absurd (hfaulted.symm.trans hwait) (by simp)

end Sys2Proof
end

section
/-! SUPPORT. Rules for the invariant of the machine (R24, R34, R60): the values `pc` gets from `BNNN` and from a load, and each event keeps the invariant. -/

namespace Sys2Proof

namespace Machine

theorem entryPoint_addr_bounds (p : EntryPoint) : 0x200 ≤ p.addr ∧ p.addr ≤ 0x600 := by cases p <;> decide

@[simp] theorem zextByte_toNat (b : Byte) : (zextByte b).toNat = b.toNat := BitVec.toNat_setWidth_of_le (by decide)

/-- `NNN` plus a byte is at most `0x10FE` (R147). -/
theorem zextAddr_add_zextByte_toNat (nnn : BitVec 12) (b : Byte) :
    (zextAddr nnn + zextByte b).toNat = nnn.toNat + b.toNat := by
  have hnnn := nnn.isLt
  have hb := b.isLt
  rw [BitVec.toNat_add, zextAddr_toNat, zextByte_toNat]
  omega

namespace State

theorem loaded_pc_toNat (s : State) (image : List Byte) : (s.loaded image).pc.toNat = s.config.entryPoint.addr := by
  have haddr := (entryPoint_addr_bounds s.config.entryPoint).2
  exact Nat.mod_eq_of_lt (by omega)

theorem resetWith_inv (cfg : Config) (es : List Event) : (resetWith cfg es).Inv where
  memCanonical := rfl
  pcBounded := by simp [resetWith]
  stackBounded k := by simp [resetWith]
  faultPrecise r h := by simp [resetWith] at h

variable {s t : State}

/-- Replacing elements the invariant does not mention keeps it. -/
theorem Inv.of_same (h : s.Inv) (hconfig : t.config = s.config) (hmem : t.mem = s.mem) (hpc : t.pc = s.pc)
    (hstack : t.stack = s.stack) (hrun : t.runState = s.runState ∨ ∀ r, t.runState ≠ .faulted r) : t.Inv where
  memCanonical := by rw [hconfig, hmem]; exact h.memCanonical
  pcBounded := hpc ▸ h.pcBounded
  stackBounded k := by rw [hstack]; exact h.stackBounded k
  faultPrecise r hr := by
    rcases hrun with hsame | hnot
    · rw [hpc]; exact h.faultPrecise r (hsame ▸ hr)
    · exact absurd hr (hnot r)

/-- A sound fault recorded at `pc` keeps the invariant. -/
theorem Inv.setRunState_faulted (h : s.Inv) {r : FaultRecord} (hr : TickFault s r) : (s.setRunState (.faulted r)).Inv where
  memCanonical := h.memCanonical
  pcBounded := h.pcBounded
  stackBounded := h.stackBounded
  faultPrecise r' hr' := by
    obtain rfl := RunState.faulted.inj hr'
    exact ⟨hr.sound, hr.pc_eq⟩

/-- An instruction that completes from a fetchable address keeps the invariant: `pc` after the instruction is at most `0x1000`, and
so is every slot it may come from. -/
theorem Inv.of_completes (h : s.Inv) {i : Instr} (hruns : s.runs i) (hc : Completes i s.advancePc t) : t.Inv := by
  obtain ⟨henabled, hfetchable, -⟩ := hruns
  have hrunning : s.runState = .running := (s.enabled_iff.mp henabled).1
  have hafter : (s.pc + 2).toNat ≤ 0x1000 := by
    have hpc := s.fetchable_iff.mp hfetchable
    bv_omega
  refine ⟨?_, ?_, fun k => ?_, fun r hr => ?_⟩
  · rw [hc.frame.2.1]; exact hc.memCanonical h.memCanonical
  · rcases hc.pc_cases with hpc | hpc | ⟨nnn, b, hpc⟩ | ⟨k, hpc⟩
    · rw [hpc, advancePc_pc]; omega
    · rw [hpc, advancePc_pc]; bv_omega
    · rw [hpc, zextAddr_add_zextByte_toNat]; omega
    · rw [hpc]; exact (h.stackBounded k).trans (by decide)
  · rcases hc.stack_cases with hstack | ⟨j, hstack⟩
    · rw [hstack]; exact h.stackBounded k
    · by_cases hjk : j = k
      · subst hjk; simpa [hstack] using hafter
      · have hne : j.val ≠ k.val := fun heq => hjk (Fin.ext heq)
        simpa [hstack, hne] using h.stackBounded k
  · rcases hc.runState_cases with hkept | ⟨x, hwait⟩
    · exact absurd (hr.symm.trans (hkept.trans hrunning)) (by simp)
    · exact absurd (hr.symm.trans hwait) (by simp)

theorem Inv.instrTick (h : s.Inv) (ht : s.instrTick = .next t) : t.Inv := by
  rcases s.instrTick_next_cases ht with ⟨-, rfl⟩ | ⟨r, hfault, rfl⟩ | ⟨i, hruns, hcompletes⟩
  · exact h
  · exact h.setRunState_faulted hfault
  · exact h.of_completes hruns hcompletes

theorem Inv.keyUpdate (h : s.Inv) (keys : Keys) : (s.keyUpdate keys).Inv := by
  rcases s.keyUpdate_cases keys with hk | ⟨x, b, hk⟩
  · rw [hk]; exact h.of_same rfl rfl rfl rfl (.inl rfl)
  · rw [hk]; exact h.of_same rfl rfl rfl rfl (.inr fun _ => by simp)

/-- A load of an image that fits keeps memory canonical and leaves no fault. -/
theorem Inv.loadRom (h : s.Inv) (image : List Byte) : (s.loadRom image).1.Inv := by
  rcases Nat.lt_or_ge (maxRom s.config) image.length with hlong | hfits
  · rw [s.loadRom_of_maxRom_lt hlong]; exact h
  · rw [s.loadRom_of_le_maxRom hfits]
    have haddr := (entryPoint_addr_bounds s.config.entryPoint).2
    have hend : s.config.entryPoint.addr + image.length ≤ memSize := Nat.add_le_of_le_sub' (haddr.trans (by decide)) hfits
    refine ⟨Memory.writeBytes_wf _ image hend (Memory.clearFrom_wf _ 0x200 h.memCanonical), ?_, h.stackBounded, nofun⟩
    rw [loaded_pc_toNat]
    omega

/-- Every event keeps the invariant. -/
theorem Inv.applyEvent (h : s.Inv) {e : Event} (ht : s.applyEvent e = .next t) : t.Inv := by
  cases e with
  | instrTick => exact h.instrTick ht
  | timerTick => obtain rfl := Host.Outcome.next.inj ht; exact h.of_same rfl rfl rfl rfl (.inl rfl)
  | keyUpdate keys => obtain rfl := Host.Outcome.next.inj ht; exact h.keyUpdate keys
  | reset => obtain rfl := Host.Outcome.next.inj ht; exact resetWith_inv _ _
  | loadRom image => obtain rfl := Host.Outcome.next.inj ht; exact h.loadRom image
  | pause | resume => obtain rfl := Host.Outcome.next.inj ht; exact h.of_same rfl rfl rfl rfl (.inl rfl)
  | snapshot => obtain rfl := Host.Outcome.next.inj ht; exact h

end State

end Machine

end Sys2Proof
end

section
/-! SUPPORT. Proofs of the statements on the invariant (R24, R34, R36, R60). -/

namespace Sys2Proof

open Sys2Proof.Machine

/-- Settles O57: a step is an event applied to the state with that event taken off, and every event keeps the invariant. -/
theorem stepKeepsTheInvariant : Obligations.StepKeepsTheInvariant := by
  unfold Obligations.StepKeepsTheInvariant
  intro s t h hstep
  rcases s.step_cases hstep with ⟨-, htick⟩ | ⟨e, rest, -, hevent⟩
  · exact h.instrTick htick
  · have hrest : (s.setPending rest).Inv := h.of_same rfl rfl rfl rfl (.inl rfl)
    exact hrest.applyEvent hevent

/-- Settles O58: the empty list is canonical, every number is 0, and no fault is recorded. -/
theorem resetMeetsTheInvariant : Obligations.ResetMeetsTheInvariant := by
  unfold Obligations.ResetMeetsTheInvariant
  exact ⟨State.resetWith_inv _ _, State.resetWith_inv⟩

end Sys2Proof
end

section
/-! SUPPORT. Rules for balanced runs (R140): a call and a return as ticks, and the live entries of the call stack, which a balanced
run keeps. -/

namespace Sys2Proof

namespace Machine

/-- `SP` and every slot below it, the live entries of the stack, have the same values in both states. -/
structure LiveEntriesKept (s t : State) : Prop where
  SP_eq : t.SP = s.SP
  slots : ∀ k < s.SP.val, t.stack[k]? = s.stack[k]?

theorem LiveEntriesKept.refl (s : State) : LiveEntriesKept s s := ⟨rfl, fun _ _ => rfl⟩

theorem LiveEntriesKept.trans {s t u : State} (h : LiveEntriesKept s t) (h' : LiveEntriesKept t u) :
    LiveEntriesKept s u where
  SP_eq := h'.SP_eq.trans h.SP_eq
  slots k hk := (h'.slots k (h.SP_eq ▸ hk)).trans (h.slots k hk)

/-- A change of neither `SP` nor a slot keeps the live entries. -/
theorem ChangesOnly.liveEntriesKept {es : List Element} {s t : State} (h : ChangesOnly es s t) (hSP : .SP ∉ es)
    (hstack : .stack ∉ es) : LiveEntriesKept s t where
  SP_eq := h.1 .SP hSP
  slots k _ := congrArg (·[k]?) (h.1 .stack hstack)

namespace State

variable {s t : State}

/-- Every event but `InstrTick` and `Reset` keeps the live entries. -/
theorem liveEntriesKept_of_event {e : Event} (htick : e ≠ .instrTick) (hreset : e ≠ .reset)
    (h : s.applyEvent e = .next t) : LiveEntriesKept s t := by
  refine (s.changesOnly_applyEvent h).liveEntriesKept ?_ ?_
  all_goals cases e <;> simp_all [eventWrites]

/-- A tick of any instruction but a call and a return keeps the live entries, whether it completes or takes its fault. -/
theorem liveEntriesKept_of_instr {i : Instr} (hruns : s.runs i) (hret : i ≠ .op00EE) (hcall : ∀ nnn, i ≠ .op2NNN nnn)
    (h : s.instrTick = .next t) : LiveEntriesKept s t := by
  rw [s.instrTick_of_runs hruns] at h
  rcases s.advancePc.exec_next_cases h with hcompletes | ⟨kind, info, -, rfl⟩
  · refine (s.changesOnly_advancePc.liveEntriesKept (by simp) (by simp)).trans
      (hcompletes.frame.liveEntriesKept ?_ ?_)
    all_goals cases i <;> simp_all [instrWrites]
  · exact ⟨rfl, fun _ _ => rfl⟩

/-- The tick of a call that finds room: the address after the call becomes the newest entry (R142). -/
theorem instrTick_call {nnn : BitVec 12} (hruns : s.runs (.op2NNN nnn)) (hlt : s.SP.val < 16)
    (h : s.instrTick = .next t) : t.SP.val = s.SP.val + 1 ∧ t.stack[s.SP.val]? = some (s.pc + 2) ∧
      ∀ k < s.SP.val, t.stack[k]? = s.stack[k]? := by
  rw [s.instrTick_of_runs hruns] at h
  obtain ⟨u, hpush, hSP, hslot, hslots, -⟩ := s.advancePc.push_spec s.advancePc.pc hlt
  obtain rfl := Host.Outcome.next.inj ((s.advancePc.exec_op2NNN_of_push nnn hpush).symm.trans h)
  exact ⟨hSP, hslot, fun k hk => hslots k (Nat.ne_of_lt hk)⟩

/-- The tick of a return from a non-empty stack: the newest entry goes to `pc`, and every slot is kept (R140). -/
theorem instrTick_return (hruns : s.runs .op00EE) (hpos : 0 < s.SP.val) : ∃ t, s.instrTick = .next t ∧
    t.SP.val = s.SP.val - 1 ∧ s.stack[s.SP.val - 1]? = some t.pc ∧ t.stack = s.stack := by
  obtain ⟨a, u, hpop, hSP, hnewest, hframe⟩ := s.advancePc.pop_spec hpos
  exact ⟨u.setPc a, (s.instrTick_of_runs hruns).trans (s.advancePc.exec_op00EE_of_pop hpop), hSP, hnewest,
    hframe.1 .stack (by simp)⟩

/-- A call, a stretch that keeps the live entries, and a return: `pc` is the address after the call, and the live entries are those
before the call. -/
theorem call_return_comes_back {u : State} {nnn : BitVec 12} (hcall : s.runs (.op2NNN nnn)) (hlt : s.SP.val < 16)
    (ht : s.instrTick = .next t) (hkept : LiveEntriesKept t u) (hret : u.runs .op00EE) :
    ∃ v, u.instrTick = .next v ∧ v.pc = s.pc + 2 ∧ LiveEntriesKept s v := by
  obtain ⟨htSP, hnewest, hslots⟩ := instrTick_call hcall hlt ht
  have huSP : u.SP.val = s.SP.val + 1 := by rw [hkept.SP_eq, htSP]
  obtain ⟨v, hv, hvSP, hpc, hstack⟩ := instrTick_return hret (by omega)
  refine ⟨v, hv, ?_, Fin.ext (by omega), fun k hk => ?_⟩
  · rw [huSP, Nat.add_sub_cancel, hkept.slots _ (by omega), hnewest] at hpc
    exact (Option.some.inj hpc).symm
  · rw [hstack, hkept.slots k (by omega), hslots k hk]

/-- A balanced run keeps the live entries of the call stack. -/
theorem liveEntriesKept_of_balancedRun (h : BalancedRun s t) : LiveEntriesKept s t := by
  induction h with
  | done s => exact .refl s
  | event e htick hreset happly _ ih => exact (liveEntriesKept_of_event htick hreset happly).trans ih
  | instr i hruns hret hcall htick _ ih => exact (liveEntriesKept_of_instr hruns hret hcall htick).trans ih
  | nested nnn hcall hlt htick _ hret hback _ ihcallee ihrest =>
    obtain ⟨v, hv, -, hkept⟩ := call_return_comes_back hcall hlt htick ihcallee hret
    obtain rfl := Host.Outcome.next.inj (hv.symm.trans hback)
    exact hkept.trans ihrest

end State

end Machine

end Sys2Proof
end

section
/-! SUPPORT. Proof of the statement on balanced runs (R140, vector S4). -/

namespace Sys2Proof

open Sys2Proof.Machine

/-- Settles O24: the balanced run keeps the live entries, the newest of which is the address after the call. -/
theorem callAndBalancedReturnComeBack : Obligations.CallAndBalancedReturnComeBack := by
  unfold Obligations.CallAndBalancedReturnComeBack
  intro s t u nnn hcall hlt ht hrun hret
  obtain ⟨v, hv, hpc, hkept⟩ :=
    State.call_return_comes_back hcall hlt ht (State.liveEntriesKept_of_balancedRun hrun) hret
  exact ⟨v, hv, hpc, hkept.SP_eq⟩

end Sys2Proof
end

section
/-! SUPPORT. Rules for changes that commute with the machine (R270, R271): timers and keys with an instruction that does not use them,
the instruction rate with every step. -/

namespace Sys2Proof

namespace Machine

/-- Only `FX0A` suspends the instruction clock. -/
theorem Completes.runState_eq {i : Instr} {s t : State} (h : Completes i s t) (hi : ∀ x, i ≠ .opFX0A x) :
    t.runState = s.runState := by
  refine h.frame.1 .runState ?_
  cases i with
  | opFX0A x => exact absurd rfl (hi x)
  | _ => simp [instrWrites]

namespace State

variable (s : State)

theorem timerTick_eq_mapTimersKeys : s.timerTick = s.mapTimersKeys countDown countDown id := rfl

theorem setKey_eq_mapTimersKeys (keys : Keys) : s.setKey keys = s.mapTimersKeys id id (fun _ => keys) := rfl

/-- After an instruction other than `FX0A` a running machine does not wait for a key. -/
theorem not_waiting_of_exec {i : Instr} {t : State} (hi : ∀ x, i ≠ .opFX0A x) (hrun : s.runState = .running)
    (h : exec i s = .next t) (x : Nibble) : t.runState ≠ .waitKey x := by
  rcases s.exec_next_cases h with hcompletes | ⟨kind, info, -, rfl⟩
  · rw [hcompletes.runState_eq hi, hrun]; simp
  · simp

/-! ## The instruction rate (R6, R271) -/

/-- The state with another `INSTR_HZ` in its configuration. -/
def withRate (hz : Nat) (s : State) : State := { s with config := { s.config with instrHz := hz } }

variable (hz : Nat)

theorem skipIf_withRate (c : Bool) : (s.withRate hz).skipIf c = (s.skipIf c).withRate hz := by
  rw [skipIf_eq_setPc, skipIf_eq_setPc]; rfl

theorem memWriteList_withRate (bs : List Byte) : ∀ (s : State) (a : Nat),
    (s.withRate hz).memWriteList a bs = (s.memWriteList a bs).withRate hz := by
  induction bs with
  | nil => exact fun _ _ => rfl
  | cons b rest ih => exact fun s a => ih (s.memWrite a b) (a + 1)

theorem loadRegs_withRate (is : List Nibble) : ∀ (s : State) (a : Nat),
    (s.withRate hz).loadRegs a is = (s.loadRegs a is).withRate hz := by
  induction is with
  | nil => exact fun _ _ => rfl
  | cons i rest ih => exact fun s a => ih (s.setV i (s.memRead (a + i.val))) a

theorem guardRange_withRate (i : Instr) (base count : Nat) (t : State) :
    (s.withRate hz).guardRange i base count (.next (t.withRate hz)) =
      mapNext (withRate hz) (s.guardRange i base count (.next t)) := by
  cases h : outOfBounds s.config.boundsPolicy base count with
  | none => rw [s.guardRange_of_none h, guardRange_of_none (s.withRate hz) h]; rfl
  | some a => rw [s.guardRange_of_some h, guardRange_of_some (s.withRate hz) h]; rfl

/-- No instruction reads or writes the rate. -/
theorem exec_withRate (i : Instr) : exec i (s.withRate hz) = mapNext (withRate hz) (exec i s) := by
  cases i with
  | op00EE =>
    rcases Nat.eq_zero_or_pos s.SP.val with hempty | hpos
    · rw [s.exec_op00EE_of_empty hempty, exec_op00EE_of_empty (s.withRate hz) hempty]; rfl
    · rw [s.exec_op00EE_of_pop (s.pop_of_pos hpos), exec_op00EE_of_pop _ (pop_of_pos (s.withRate hz) hpos)]; rfl
  | op2NNN nnn =>
    rcases Nat.lt_or_eq_of_le (Nat.le_of_lt_succ s.SP.isLt) with hlt | hfull
    · rw [s.exec_op2NNN_of_push nnn (s.push_of_lt _ hlt),
        exec_op2NNN_of_push _ nnn (push_of_lt (s.withRate hz) _ hlt)]
      rfl
    · rw [s.exec_op2NNN_of_full nnn hfull, exec_op2NNN_of_full (s.withRate hz) nnn hfull]; rfl
  | op3XNN | op4XNN | op5XY0 | op9XY0 | opEX9E | opEXA1 =>
    exact congrArg Host.Outcome.next (s.skipIf_withRate hz _)
  | opDXYN =>
    simp only [exec, execDXYN]
    rw [← guardRange_withRate]; rfl
  | opFX33 x =>
    simp only [exec, execFX33]
    rw [← guardRange_withRate, ← memWriteList_withRate]; rfl
  | opFX55 x =>
    simp only [exec, execFX55]
    rw [← guardRange_withRate, ← memWriteList_withRate]; rfl
  | opFX65 x =>
    simp only [exec, execFX65]
    rw [← guardRange_withRate, ← loadRegs_withRate]; rfl
  | _ => rfl

theorem instrTick_withRate : (s.withRate hz).instrTick = mapNext (withRate hz) s.instrTick := by
  cases henabled : s.enabled with
  | false => rw [s.instrTick_of_not_enabled henabled, instrTick_of_not_enabled (s.withRate hz) henabled]; rfl
  | true =>
    rw [s.instrTick_of_enabled henabled, instrTick_of_enabled (s.withRate hz) henabled]
    cases hfetchable : s.fetchable with
    | false => rw [s.cycle_of_not_fetchable hfetchable, cycle_of_not_fetchable (s.withRate hz) hfetchable]; rfl
    | true =>
      rw [s.cycle_of_fetchable hfetchable, cycle_of_fetchable (s.withRate hz) hfetchable]
      have hword : (s.withRate hz).fetchWord = s.fetchWord := rfl
      cases hdecode : decodeWord s.fetchWord with
      | ok i =>
        rw [hword, s.decodeExecute_of_ok hdecode, decodeExecute_of_ok (s.withRate hz) hdecode]
        exact s.advancePc.exec_withRate hz i
      | error e => rw [hword, s.decodeExecute_of_error hdecode, decodeExecute_of_error (s.withRate hz) hdecode]; rfl

theorem keyUpdate_withRate (keys : Keys) : (s.withRate hz).keyUpdate keys = (s.keyUpdate keys).withRate hz := by
  cases hk : lowestNewKey s.key keys with
  | none => rw [s.keyUpdate_of_no_new_key hk, keyUpdate_of_no_new_key (s.withRate hz) hk]; rfl
  | some k =>
    by_cases hwait : ∃ x, s.runState = .waitKey x
    · obtain ⟨x, hx⟩ := hwait
      rw [s.keyUpdate_of_new_key hx hk, keyUpdate_of_new_key (s.withRate hz) hx hk]; rfl
    · rw [s.keyUpdate_of_not_waiting (not_exists.mp hwait), keyUpdate_of_not_waiting (s.withRate hz) (not_exists.mp hwait)]
      rfl

theorem loadRom_withRate (image : List Byte) : ((s.withRate hz).loadRom image).1 = (s.loadRom image).1.withRate hz := by
  rcases Nat.lt_or_ge (maxRom s.config) image.length with hlong | hfits
  · rw [s.loadRom_of_maxRom_lt hlong, loadRom_of_maxRom_lt (s.withRate hz) hlong]
  · rw [s.loadRom_of_le_maxRom hfits, loadRom_of_le_maxRom (s.withRate hz) hfits]; rfl

/-- No event reads or writes the rate. -/
theorem applyEvent_withRate (e : Event) : (s.withRate hz).applyEvent e = mapNext (withRate hz) (s.applyEvent e) := by
  cases e with
  | instrTick => exact s.instrTick_withRate hz
  | keyUpdate keys => exact congrArg Host.Outcome.next (s.keyUpdate_withRate hz keys)
  | loadRom image => exact congrArg Host.Outcome.next (s.loadRom_withRate hz image)
  | timerTick | reset | pause | resume | snapshot => rfl

theorem step_withRate : step (s.withRate hz) = mapNext (withRate hz) (step s) := by
  cases hp : s.pending with
  | nil => rw [s.step_of_nil hp, step_of_nil (s.withRate hz) hp]; exact s.instrTick_withRate hz
  | cons e rest =>
    rw [s.step_of_cons hp, step_of_cons (s.withRate hz) hp]
    exact (s.setPending rest).applyEvent_withRate hz e

end State

end Machine

end Sys2Proof
end

section
/-! SUPPORT. Proofs of the statements on changes that commute (R270, R271). -/

namespace Sys2Proof

open Sys2Proof.Machine

/-- Settles O54: counting the timers down is an update that an instruction without timers ignores. -/
theorem timerTickCommutesWithOtherInstructions : Obligations.TimerTickCommutesWithOtherInstructions := by
  unfold Obligations.TimerTickCommutesWithOtherInstructions
  intro i s t hi ht
  have hignores : IgnoresUpdate countDown countDown id i := by
    cases i with
    | opFX07 x | opFX15 x | opFX18 x => simpa using hi x
    | opEX9E | opEXA1 => rfl
    | _ => trivial
  rw [State.timerTick_eq_mapTimersKeys, s.exec_mapTimersKeys _ _ _ hignores, ht]
  rfl

/-- Settles O55: a machine that runs, and after such an instruction still does not wait, only has its keys replaced, and that is an
update which an instruction without keys ignores. -/
theorem keyUpdateCommutesWithOtherInstructions : Obligations.KeyUpdateCommutesWithOtherInstructions := by
  unfold Obligations.KeyUpdateCommutesWithOtherInstructions
  intro i s t keys hi hrun ht
  have hignores : IgnoresUpdate id id (fun _ => keys) i := by
    cases i with
    | opEX9E x | opEXA1 x => simpa using hi x
    | opFX07 | opFX15 | opFX18 => rfl
    | _ => trivial
  have hwait : ∀ x, t.runState ≠ .waitKey x := s.not_waiting_of_exec (fun x => (hi x).2.2) hrun ht
  rw [s.keyUpdate_of_not_waiting (by simp [hrun]), t.keyUpdate_of_not_waiting hwait, State.setKey_eq_mapTimersKeys,
    s.exec_mapTimersKeys _ _ _ hignores, ht]
  rfl

/-- Settles O56: no instruction and no event reads or writes the rate. -/
theorem instructionRateHasNoEffect : Obligations.InstructionRateHasNoEffect := by
  unfold Obligations.InstructionRateHasNoEffect
  intro s t hz h
  exact (s.step_withRate hz).trans (congrArg (mapNext (State.withRate hz)) h)

end Sys2Proof
end

section
/-! SUPPORT. Rules for shifts and the random byte (R168 to R171). -/

namespace Sys2Proof

namespace Machine

theorem shiftRightFlag_toNat (a : Byte) : (shiftRightFlag a).toNat = a.toNat % 2 := by
  rw [shiftRightFlag, BitVec.toNat_and]
  exact Nat.and_one_is_mod _

theorem shiftLeftFlag_toNat (a : Byte) : (shiftLeftFlag a).toNat = a.toNat / 128 := by
  have ha : a.toNat < 256 := a.isLt
  rw [shiftLeftFlag, BitVec.toNat_and, BitVec.toNat_ushiftRight, Nat.shiftRight_eq_div_pow]
  exact (Nat.and_one_is_mod _).trans (Nat.mod_eq_of_lt (by omega))

theorem ushiftRight_one_toNat (a : Byte) : (a >>> 1).toNat = a.toNat / 2 := by
  rw [BitVec.toNat_ushiftRight, Nat.shiftRight_eq_div_pow]

theorem shiftLeft_one_toNat (a : Byte) : (a <<< 1).toNat = a.toNat * 2 % 256 := by
  rw [BitVec.toNat_shiftLeft, Nat.shiftLeft_eq]

/-- The bit shifted out, shifted right once more, is lost. -/
theorem shiftRightFlag_ushiftRight_one (a : Byte) : shiftRightFlag a >>> 1 = 0 := by
  apply BitVec.eq_of_toNat_eq
  rw [ushiftRight_one_toNat, shiftRightFlag_toNat]
  exact Nat.div_eq_of_lt (Nat.mod_lt _ (by decide))

/-- The bit shifted out, shifted left once more, is 2. -/
theorem shiftLeftFlag_shiftLeft_one (a : Byte) : shiftLeftFlag a <<< 1 = if 0x80 ≤ a.toNat then 2 else 0 := by
  have ha : a.toNat < 256 := a.isLt
  apply BitVec.eq_of_toNat_eq
  rw [shiftLeft_one_toNat, shiftLeftFlag_toNat]
  split
  · show _ = 2; omega
  · show _ = 0; omega

/-- A flag to `VF`, then a result to `V[X]`: the result stands in every case, the flag unless `X = 0xF`, and the other registers and
elements are kept. -/
theorem State.setVF_setV_spec (s : State) (x : Nibble) (flag b : Byte) :
    ((s.setVF flag).setV x b).getV x = b ∧ (x ≠ 15 → ((s.setVF flag).setV x b).getV 15 = flag) ∧
      RegsKeptExcept [x, 15] s ((s.setVF flag).setV x b) ∧ ChangesOnly [.V] s ((s.setVF flag).setV x b) := by
  refine ⟨State.getV_setV_self _ x b, fun hx => ?_, fun r hr => ?_, ?_⟩
  · rw [State.getV_setV_of_ne _ b hx.symm, State.getV_setVF_self]
  · obtain ⟨hrx, hrF⟩ : r ≠ x ∧ r ≠ 15 := by simpa using hr
    rw [State.getV_setV_of_ne _ b hrx, State.getV_setVF_of_ne _ flag hrF]
  · exact (((changesOnly_refl s).setV 15 flag).setV x b).mono (by simp)

end Machine

end Sys2Proof
end

section
/-! SUPPORT. Proofs of the statements on shifts, the random byte, the indexed jump and `FX1E` (R147, R168, R170, R171, R191). -/

namespace Sys2Proof

open Sys2Proof.Machine

/-- Settles O17: the flag to `VF`, then `V[X]` read again and shifted, so that `X = 0xF` shifts the flag. -/
theorem shiftsWriteFlagThenResult : Obligations.ShiftsWriteFlagThenResult := by
  unfold Obligations.ShiftsWriteFlagThenResult
  intro x y s
  constructor
  · obtain ⟨hresult, hflag, hframe⟩ := s.setVF_setV_spec x (shiftRightFlag (s.getV x))
      ((s.setVF (shiftRightFlag (s.getV x))).getV x >>> 1)
    refine ⟨_, rfl, fun hx => ⟨?_, ?_⟩, ?_, hframe⟩
    · rw [hresult, ushiftRight_one_toNat, State.getV_setVF_of_ne _ _ hx]
    · rw [hflag hx, shiftRightFlag_toNat]
    · rintro rfl
      rw [hresult, State.getV_setVF_self, shiftRightFlag_ushiftRight_one]
  · obtain ⟨hresult, hflag, hframe⟩ := s.setVF_setV_spec x (shiftLeftFlag (s.getV x))
      ((s.setVF (shiftLeftFlag (s.getV x))).getV x <<< 1)
    refine ⟨_, rfl, fun hx => ⟨?_, ?_⟩, ?_, hframe⟩
    · rw [hresult, shiftLeft_one_toNat, State.getV_setVF_of_ne _ _ hx]
    · rw [hflag hx, shiftLeftFlag_toNat]
    · rintro rfl
      rw [hresult, State.getV_setVF_self, shiftLeftFlag_shiftLeft_one]

/-- Settles O18: one draw, then one write of the byte drawn and masked. -/
theorem randomByteIsOneMaskedDraw : Obligations.RandomByteIsOneMaskedDraw := by
  unfold Obligations.RandomByteIsOneMaskedDraw
  intro x nn s
  refine ⟨s.drawRandom.2.setV x (s.drawRandom.1 &&& nn), rfl, fun k _ => ?_, rfl, fun r hr => ?_,
    ((changesOnly_refl s).setRng _).setV x _⟩
  · rw [State.getV_setV_self, BitVec.getLsbD_and]; rfl
  · exact State.getV_setV_of_ne _ _ (List.ne_of_not_mem_cons hr)

/-- Settles O23: the sum of a 12-bit and an 8-bit number fits in `pc`. -/
theorem indexedJumpDoesNotReduceItsSum : Obligations.IndexedJumpDoesNotReduceItsSum := by
  unfold Obligations.IndexedJumpDoesNotReduceItsSum
  intro nnn s
  have hnnn := nnn.isLt
  have hV := (s.getV 0).isLt
  have hsum := zextAddr_add_zextByte_toNat nnn (s.getV 0)
  refine ⟨s.setPc (zextAddr nnn + zextByte (s.getV 0)), rfl, hsum, ?_, (changesOnly_refl s).setPc _,
    State.fetchFaults_of_lt_pc _⟩
  rw [State.setPc_pc, hsum]
  omega

/-- Settles O26: the instruction is one write of `I`, of a sum of words. -/
theorem addToAddressRegisterWrapsAtSixteenBits : Obligations.AddToAddressRegisterWrapsAtSixteenBits := by
  unfold Obligations.AddToAddressRegisterWrapsAtSixteenBits
  intro x s
  refine ⟨s.setI (s.I + zextByte (s.getV x)), rfl, ?_, (changesOnly_refl s).setI _⟩
  rw [State.setI_I, BitVec.toNat_add, zextByte_toNat]

end Sys2Proof
end

section
/-! SUPPORT. Rules for drawing (R211): the sprite, row by row, against the pixels its 1 bits cover. -/

namespace Sys2Proof

namespace Machine

namespace State

variable (s : State) (x0 y0 n : Nat) {px : Fin 64} {py : Fin 32}

/-- The pixels covered by `n + 1` rows are those covered by the first `n` and those of the last. -/
theorem spriteCovers_succ : s.spriteCovers x0 y0 (n + 1) px py ↔
    s.spriteCovers x0 y0 n px py ∨ RowCovers (s.memRead (s.dataAddr n)) x0 (y0 + n) px py := by
  constructor
  · rintro ⟨r, c, hr, hc, hbit, hx, hy⟩
    rcases Nat.lt_succ_iff_lt_or_eq.mp hr with hlt | rfl
    · exact .inl ⟨r, c, hlt, hc, hbit, hx, hy⟩
    · exact .inr ⟨c, hc, hbit, Fin.ext hx, Fin.ext hy⟩
  · rintro (⟨r, c, hr, hrest⟩ | ⟨c, hc, hbit, rfl, rfl⟩)
    · exact ⟨r, c, Nat.lt_succ_of_lt hr, hrest⟩
    · exact ⟨n, c, Nat.lt_succ_self n, hc, hbit, rfl, rfl⟩

/-- Up to 32 rows fall on different pixel rows, so the last one covers no pixel of the others. -/
theorem not_spriteCovers_of_row (hn : n < 32) (hy : row (y0 + n) = py) : ¬s.spriteCovers x0 y0 n px py := by
  rintro ⟨r, c, hr, -, -, -, hrow⟩
  have hlast : (y0 + n) % 32 = py.val := congrArg Fin.val hy
  omega

theorem drawSprite_succ : s.drawSprite x0 y0 (n + 1) =
    drawRow (s.memRead (s.dataAddr n)) x0 (y0 + n) (s.drawSprite x0 y0 n) := by
  simp [drawSprite, List.range_succ]

/-- The framebuffer and the collision after `n` rows: the covered pixels inverted, and whether one of them was on. -/
structure SpriteDrawn (acc : Framebuffer × Bool) : Prop where
  inverted : ∀ {px py}, s.spriteCovers x0 y0 n px py → acc.1.pixel px py = !s.fb.pixel px py
  kept : ∀ {px py}, ¬s.spriteCovers x0 y0 n px py → acc.1.pixel px py = s.fb.pixel px py
  hit_iff : acc.2 = true ↔ ∃ px py, s.spriteCovers x0 y0 n px py ∧ s.fb.pixel px py = true

/-- One more row, on pixels that no row before it covers. -/
theorem SpriteDrawn.drawRow {s : State} {x0 y0 n : Nat} {acc : Framebuffer × Bool} (h : s.SpriteDrawn x0 y0 n acc)
    (hn : n < 32) :
    s.SpriteDrawn x0 y0 (n + 1) (drawRow (s.memRead (s.dataAddr n)) x0 (y0 + n) acc) where
  inverted {px py} hcovers := by
    by_cases hrow : RowCovers (s.memRead (s.dataAddr n)) x0 (y0 + n) px py
    · obtain ⟨-, -, -, -, hy⟩ := id hrow
      rw [pixel_drawRow_of_covers acc hrow, h.kept (s.not_spriteCovers_of_row x0 y0 n hn hy)]
    · rw [pixel_drawRow_of_not_covers acc hrow, h.inverted (((s.spriteCovers_succ x0 y0 n).mp hcovers).resolve_right hrow)]
  kept {px py} hcovers := by
    obtain ⟨hbefore, hrow⟩ := not_or.mp (mt (s.spriteCovers_succ x0 y0 n).mpr hcovers)
    rw [pixel_drawRow_of_not_covers acc hrow, h.kept hbefore]
  hit_iff := by
    rw [hit_drawRow, h.hit_iff]
    constructor
    · rintro (⟨px, py, hcovers, hon⟩ | ⟨c, hc, hbit, hon⟩)
      · exact ⟨px, py, (s.spriteCovers_succ x0 y0 n).mpr (.inl hcovers), hon⟩
      · rw [h.kept (s.not_spriteCovers_of_row x0 y0 n hn rfl)] at hon
        exact ⟨_, _, (s.spriteCovers_succ x0 y0 n).mpr (.inr ⟨c, hc, hbit, rfl, rfl⟩), hon⟩
    · rintro ⟨px, py, hcovers, hon⟩
      rcases (s.spriteCovers_succ x0 y0 n).mp hcovers with hbefore | ⟨c, hc, hbit, rfl, rfl⟩
      · exact .inl ⟨px, py, hbefore, hon⟩
      · exact .inr ⟨c, hc, hbit, by rwa [h.kept (s.not_spriteCovers_of_row x0 y0 n hn rfl)]⟩

/-- The row-by-row loop draws the sprite. -/
theorem drawSprite_spriteDrawn (hn : n ≤ 32) : s.SpriteDrawn x0 y0 n (s.drawSprite x0 y0 n) := by
  induction n with
  | zero =>
    have hnone : ∀ px py, ¬s.spriteCovers x0 y0 0 px py := fun px py ⟨r, c, hr, _⟩ => Nat.not_lt_zero r hr
    exact ⟨fun h => absurd h (hnone _ _), fun _ => rfl, by simp [drawSprite, hnone]⟩
  | succ n ih => rw [drawSprite_succ]; exact (ih (Nat.le_of_succ_le hn)).drawRow hn

/-- The state after `DXYN` with its addresses in range. -/
def afterDraw (x y n : Nibble) : State :=
  (s.setFb (s.drawSprite (s.getV x).toNat (s.getV y).toNat n.val).1).setVF
    (collisionFlag (s.drawSprite (s.getV x).toNat (s.getV y).toNat n.val).2)

/-- `DXYN` in state `s` inverts pixel `(px, py)`. -/
def drawCovers (x y n : Nibble) (px : Fin 64) (py : Fin 32) : Prop :=
  s.spriteCovers (s.getV x).toNat (s.getV y).toNat n.val px py

end State

namespace State

variable (s : State) (x y n : Nibble) {px : Fin 64} {py : Fin 32}

theorem exec_opDXYN_of_dataInRange (h : s.dataInRange n.val) : exec (.opDXYN x y n) s = .next (s.afterDraw x y n) :=
  s.guardRange_of_dataInRange h

theorem spriteDrawn : s.SpriteDrawn (s.getV x).toNat (s.getV y).toNat n.val
    (s.drawSprite (s.getV x).toNat (s.getV y).toNat n.val) :=
  s.drawSprite_spriteDrawn _ _ _ (by omega)

theorem pixel_afterDraw_of_covers (h : s.drawCovers x y n px py) :
    (s.afterDraw x y n).fb.pixel px py = !s.fb.pixel px py := (s.spriteDrawn x y n).inverted h

theorem pixel_afterDraw_of_not_covers (h : ¬s.drawCovers x y n px py) :
    (s.afterDraw x y n).fb.pixel px py = s.fb.pixel px py := (s.spriteDrawn x y n).kept h

/-- `VF` after a draw is the collision flag. -/
theorem getV_VF_afterDraw : (s.afterDraw x y n).getV 15 =
    flagByte (s.drawSprite (s.getV x).toNat (s.getV y).toNat n.val).2 := getV_setVF_self _ _

theorem getV_afterDraw_of_ne {r : Nibble} (hr : r ≠ 15) : (s.afterDraw x y n).getV r = s.getV r :=
  getV_setVF_of_ne _ _ hr

/-- The collision: a covered pixel was on, that is, some pixel went from on to off. -/
theorem hit_iff_turned_off : (s.drawSprite (s.getV x).toNat (s.getV y).toNat n.val).2 = true ↔
    ∃ px py, s.fb.pixel px py = true ∧ (s.afterDraw x y n).fb.pixel px py = false := by
  refine (s.spriteDrawn x y n).hit_iff.trans (exists_congr fun px => exists_congr fun py => ?_)
  show s.drawCovers x y n px py ∧ _ ↔ _
  by_cases hcovers : s.drawCovers x y n px py
  · simp [hcovers, s.pixel_afterDraw_of_covers x y n hcovers]
  · simp [hcovers, s.pixel_afterDraw_of_not_covers x y n hcovers]

/-- Drawing again covers the same pixels, unless the first draw overwrote a coordinate. -/
theorem drawCovers_afterDraw (hx : x ≠ 15) (hy : y ≠ 15) :
    (s.afterDraw x y n).drawCovers x y n px py ↔ s.drawCovers x y n px py := by
  unfold drawCovers
  rw [s.getV_afterDraw_of_ne x y n hx, s.getV_afterDraw_of_ne x y n hy]
  rfl

end State

theorem flagByte_eq_zero_iff (c : Bool) : flagByte c = 0 ↔ c = false := by cases c <;> decide

end Machine

end Sys2Proof
end

section
/-! SUPPORT. Proofs of the statements on drawing (R211, vector S5). -/

namespace Sys2Proof

open Sys2Proof.Machine

/-- Settles O33: the loop inverts the covered pixels, and the collision is that one of them was turned off. -/
theorem drawInvertsExactlyTheCoveredPixels : Obligations.DrawInvertsExactlyTheCoveredPixels := by
  unfold Obligations.DrawInvertsExactlyTheCoveredPixels
  intro x y n s
  refine ⟨fun hrange => ?_, fun hfatal hn hout => ?_⟩
  · exact ⟨s.afterDraw x y n, s.exec_opDXYN_of_dataInRange x y n hrange, fun _ _ => s.pixel_afterDraw_of_covers x y n,
      fun _ _ => s.pixel_afterDraw_of_not_covers x y n,
      (s.getV_VF_afterDraw x y n).trans (if_congr (s.hit_iff_turned_off x y n) rfl rfl),
      fun r hr => s.getV_afterDraw_of_ne x y n (List.ne_of_not_mem_cons hr),
      (((changesOnly_refl s).setFb _).setV 15 _).mono (by simp)⟩
  · obtain ⟨m, hm⟩ : ∃ m, n.val = m + 1 := Nat.exists_eq_succ_of_ne_zero (fun h => hn (Fin.ext h))
    have hlast : 0xFFF < s.I.toNat + m := by omega
    show s.beforeFetch.FaultsWith .memoryOutOfBounds (s.guardRange _ (s.dataAddr 0) n.val _)
    rw [hm]
    exact s.guardRange_faultsWith hfatal hlast

/-- Settles O34: the second draw covers the same pixels, so it inverts each back, and it turns off those the first turned on. -/
theorem drawingTwiceRestoresTheScreen : Obligations.DrawingTwiceRestoresTheScreen := by
  unfold Obligations.DrawingTwiceRestoresTheScreen
  intro x y n s hx hy hrange
  generalize ht : s.afterDraw x y n = t
  have hsame : ∀ {px py}, t.drawCovers x y n px py ↔ s.drawCovers x y n px py := ht ▸ s.drawCovers_afterDraw x y n hx hy
  have hrestored : (t.afterDraw x y n).fb = s.fb := by
    refine framebuffer_ext fun px py => ?_
    by_cases hcovers : s.drawCovers x y n px py
    · rw [t.pixel_afterDraw_of_covers x y n (hsame.mpr hcovers), ← ht, s.pixel_afterDraw_of_covers x y n hcovers, Bool.not_not]
    · rw [t.pixel_afterDraw_of_not_covers x y n (mt hsame.mp hcovers), ← ht, s.pixel_afterDraw_of_not_covers x y n hcovers]
  have hrange' : t.dataInRange n.val := ht ▸ hrange
  refine ⟨t, t.afterDraw x y n, ht ▸ s.exec_opDXYN_of_dataInRange x y n hrange, t.exec_opDXYN_of_dataInRange x y n hrange',
    hrestored, fun hclear ⟨px, py, hcovers⟩ => ?_⟩
  have hon : t.fb.pixel px py = !s.fb.pixel px py := ht ▸ s.pixel_afterDraw_of_covers x y n hcovers
  have hoff : s.fb.pixel px py = false := by
    rw [← ht, s.getV_VF_afterDraw, flagByte_eq_zero_iff, ← Bool.not_eq_true, s.hit_iff_turned_off, ht] at hclear
    by_contra hlit
    exact hclear ⟨px, py, by simpa using hlit, by simpa [hon] using hlit⟩
  have hhit := (t.hit_iff_turned_off x y n).mpr ⟨px, py, by rw [hon, hoff]; rfl, by rw [hrestored, hoff]⟩
  rw [t.getV_VF_afterDraw, hhit]
  rfl

end Sys2Proof
end

section
/-! SUPPORT. Rules for data addresses (R68, R189): the byte a data address names, and the one bit of a sprite that falls on a pixel. -/

namespace Sys2Proof

namespace Machine

namespace State

variable (s : State)

/-- A data address up to `0xFFF` names the byte at that address. -/
theorem ea_dataAddr_of_le {k : Nat} (h : s.I.toNat + k ≤ 0xFFF) : ea (s.dataAddr k) = s.I.toNat + k :=
  ea_of_lt (Nat.lt_succ_of_le h)

/-- A sprite has at most 15 rows of 8 columns, so only its bit in row `r` and column `c` can fall on the pixel of that bit. -/
theorem drawCovers_iff_bit (x y n : Nibble) {r c : Nat} {px : Fin 64} {py : Fin 32} (hr : r < n.val) (hc : c < 8)
    (hpx : px.val = ((s.getV x).toNat + c) % 64) (hpy : py.val = ((s.getV y).toNat + r) % 32) :
    s.drawCovers x y n px py ↔ (s.readByte (ea (s.dataAddr r))).getLsbD (7 - c) = true := by
  have hn := n.isLt
  constructor
  · rintro ⟨r', c', hr', hc', hbit, hx, hy⟩
    obtain rfl : r' = r := by omega
    obtain rfl : c' = c := by omega
    exact hbit
  · exact fun hbit => ⟨r, c, hr, hc, hbit, hpx.symm, hpy.symm⟩

end State

end Machine

end Sys2Proof
end

section
/-! SUPPORT. Proofs of the statements on data addresses (R65, R68, R75, R189). -/

namespace Sys2Proof

open Sys2Proof.Machine

/-- Settles O31: the two lowest registers are stored at `I` and `I + 1`, where the next fetch reads its two bytes. -/
theorem storeIsSeenByTheNextFetch : Obligations.StoreIsSeenByTheNextFetch := by
  unfold Obligations.StoreIsSeenByTheNextFetch
  intro x s t hx hrange hI ht
  obtain ⟨-, hstore, -⟩ := storeRegistersInclusive x s
  obtain ⟨u, hu, hstored, -⟩ := hstore hrange
  obtain rfl := Host.Outcome.next.inj (hu.symm.trans ht)
  have hhigh : u.readByte s.I.toNat = s.getV 0 := by
    have h := hstored 0 (Fin.zero_le x)
    rwa [s.ea_dataAddr_of_le (Nat.le_succ_of_le hI)] at h
  have hlow : u.readByte (s.I.toNat + 1) = s.getV 1 := by
    have h := hstored 1 hx
    rwa [s.ea_dataAddr_of_le (Nat.succ_le_succ hI)] at h
  exact congrArg₂ wordOfBytes hhigh hlow

/-- Settles O59: the statements on `FX33`, `FX55`, `FX65` and the drawn pixels, with `EA` written out as `mod 4096`. -/
theorem dataAddressesAreTakenModuloMemorySize : Obligations.DataAddressesAreTakenModuloMemorySize := by
  unfold Obligations.DataAddressesAreTakenModuloMemorySize
  intro x y n s
  refine ⟨fun hrange => ?_, fun hrange => ?_, fun hrange => ?_⟩
  · obtain ⟨-, hstore, -⟩ := storeDecimalDigits x s
    obtain ⟨t, ht, hhundreds, htens, hones, hkept, -⟩ := hstore hrange
    refine ⟨t, ht, hhundreds, htens, hones, fun a ha => hkept a ?_⟩
    simp only [List.mem_cons, List.not_mem_nil, or_false, not_or]
    exact ⟨ha 0 (by decide), ha 1 (by decide), ha 2 (by decide)⟩
  · obtain ⟨-, hstore, -⟩ := storeRegistersInclusive x s
    obtain ⟨-, hload, -⟩ := loadRegistersInclusive x s
    obtain ⟨t, ht, hstored, hkept, -⟩ := hstore hrange
    obtain ⟨u, hu, hloaded, -⟩ := hload hrange
    refine ⟨t, u, ht, hu, hstored, fun a ha => hkept a fun hmem => ?_, hloaded⟩
    obtain ⟨k, hk, rfl⟩ := List.mem_map.mp hmem
    exact ha k.val ((mem_regsUpTo x k).mp hk) rfl
  · refine ⟨s.afterDraw x y n, s.exec_opDXYN_of_dataInRange x y n hrange, fun r c px py hr hc hpx hpy => ?_⟩
    have hcovers := s.drawCovers_iff_bit x y n hr hc hpx hpy
    show _ = (_ ^^ (s.readByte (ea (s.dataAddr r))).getLsbD (7 - c))
    cases hbit : (s.readByte (ea (s.dataAddr r))).getLsbD (7 - c) with
    | true => rw [s.pixel_afterDraw_of_covers x y n (hcovers.mpr hbit), Bool.xor_true]
    | false =>
      have hnot : ¬s.drawCovers x y n px py := by rw [hcovers, hbit]; simp
      rw [s.pixel_afterDraw_of_not_covers x y n hnot, Bool.xor_false]

end Sys2Proof
end

section
/-! SUPPORT. Rules for the keypad, the timers and the ports (`45_keypad_timer.md`, R268, R275): the lowest newly down key, the count of
the delay timer, and a list of bits as a number. -/

namespace Sys2Proof

namespace Machine

theorem keyValue_toNat (k : Nibble) : (keyValue k).toNat = k.val := by
  have hk := k.isLt
  rw [keyValue, BitVec.toNat_ofNat, Nat.mod_eq_of_lt (by omega)]

/-- The key that goes down with no lower one going down is the lowest newly down key (R233). -/
theorem lowestNewKey_eq_some {old new : Keys} {k : Nibble} (hup : old[k] = false) (hdown : new[k] = true)
    (hlower : ∀ j : Nibble, j < k → ¬(old[j] = false ∧ new[j] = true)) : lowestNewKey old new = some k := by
  rw [lowestNewKey, List.find?_eq_some_iff_getElem]
  refine ⟨by simp [hup, hdown], k.val, by simp, by simp, fun j hj => ?_⟩
  have hnot := hlower ⟨j, hj.trans k.isLt⟩ hj
  simpa [or_iff_not_imp_left] using hnot

/-- When every key that is down was down before, no key is newly down. -/
theorem lowestNewKey_eq_none {old new : Keys} (h : ∀ k : Nibble, old[k] = true ∨ new[k] = false) :
    lowestNewKey old new = none := by
  rw [lowestNewKey, List.find?_eq_none]
  intro k _
  rcases h k with hold | hnew
  · simp [hold]
  · simp [hnew]

/-- Bit `k` of the number is element `k` of the list. -/
theorem testBit_natOfBits (bs : List Bool) : ∀ k, (natOfBits bs).testBit k = bs[k]?.getD false := by
  induction bs with
  | nil => simp [natOfBits]
  | cons b rest ih =>
    intro k
    cases k with
    | zero => cases b <;> simp [natOfBits, Nat.testBit_zero]
    | succ k =>
      have hhalf : natOfBits (b :: rest) / 2 = natOfBits rest := by
        have hb := b.toNat_le
        simp only [natOfBits]
        omega
      rw [Nat.testBit_add_one, hhalf, ih, List.getElem?_cons_succ]

/-- The rows one after another are the flattened framebuffer. -/
theorem flatMap_toList_eq_flatten (fb : Framebuffer) : fb.toList.flatMap (fun r => r.toList) = fb.flatten.toList := by
  obtain ⟨⟨rows⟩, hsize⟩ := fb
  simp [List.flatMap_def, Vector.toList, Function.comp_def]

namespace State

variable (s : State)

/-- After `n` ticks `DT` has lost `n`, not below 0. -/
theorem iterate_timerTick_DT_toNat (n : Nat) : (timerTick^[n] s).DT.toNat = s.DT.toNat - n := by
  have hpred : Function.Semiconj (fun t : State => t.DT.toNat) timerTick Nat.pred := fun t => countDown_toNat t.DT
  exact (hpred.iterate_right n s).trans (Nat.pred_iterate _ n)

/-- Of the flattened framebuffer, pixel `(x, y)` is element `y * 64 + x`, and the port has it as that bit (R275, D20). -/
theorem fbPort_getLsbD (px : Fin 64) (py : Fin 32) : s.fbPort.getLsbD (py.val * 64 + px.val) = s.fb.pixel px py := by
  have hx := px.isLt
  have hy := py.isLt
  have hlt : py.val * 64 + px.val < 32 * 64 := by omega
  have hdiv : (py.val * 64 + px.val) / 64 = py.val := by omega
  have hmod : (py.val * 64 + px.val) % 64 = px.val := by omega
  rw [fbPort, BitVec.getLsbD_ofNat, testBit_natOfBits, flatMap_toList_eq_flatten, Vector.getElem?_toList,
    Vector.getElem?_flatten, dif_pos hlt]
  simp only [hdiv, hmod]
  simp [hlt, Framebuffer.pixel]

theorem keyPort_getLsbD (k : Nibble) : s.keyPort.getLsbD k.val = s.key[k] := by
  rw [keyPort, BitVec.getLsbD_ofNat, testBit_natOfBits]
  simp

end State

end Machine

end Sys2Proof
end

section
/-! SUPPORT. Proofs of the statements on the keypad, the timers, the pause bit and the ports (R230 to R233, R263 to R268, R275). -/

namespace Sys2Proof

open Sys2Proof.Machine

/-- Settles O35: each is `skipIf` on the key of the low nibble. -/
theorem keySkipsTestTheLowNibbleKey : Obligations.KeySkipsTestTheLowNibbleKey := by
  unfold Obligations.KeySkipsTestTheLowNibbleKey
  intro x k s hk
  obtain rfl : lowNibble (s.getV x) = k := Fin.ext hk
  refine ⟨⟨_, rfl, s.skipIf_pc _, s.changesOnly_skipIf _⟩, ⟨_, rfl, ?_, s.changesOnly_skipIf _⟩⟩
  simp only [State.skipIf_pc, State.keyDown, Bool.not_eq_true', ← Bool.not_eq_true, ite_not]

/-- Settles O38: a waiting machine is not enabled, and the timers run in every run state. -/
theorem keyWaitSuspendsTheInstructionClockOnly : Obligations.KeyWaitSuspendsTheInstructionClockOnly := by
  unfold Obligations.KeyWaitSuspendsTheInstructionClockOnly
  intro x s
  exact ⟨s.setRunState (.waitKey x), rfl, rfl, (changesOnly_refl s).setRunState _,
    State.instrTick_of_not_enabled _ (by simp [State.enabled]), _, rfl, countDown_toNat s.DT, countDown_toNat s.ST, rfl⟩

/-- Settles O39: the key given is the lowest newly down one, so the update resolves the wait with it. -/
theorem newlyDownKeyEndsTheWait : Obligations.NewlyDownKeyEndsTheWait := by
  unfold Obligations.NewlyDownKeyEndsTheWait
  intro s x k keys hwait hup hdown hlower
  have hupdate := s.keyUpdate_of_new_key hwait (lowestNewKey_eq_some hup hdown hlower)
  refine ⟨_, congrArg Host.Outcome.next hupdate, ?_, rfl, rfl, fun r hr => ?_, hupdate ▸ s.changesOnly_keyUpdate keys⟩
  · rw [State.getV_setKey, State.getV_setRunState, State.getV_setV_self, keyValue_toNat]
  · exact s.getV_setV_of_ne _ (List.ne_of_not_mem_cons hr)

/-- Settles O40: outside a wait, or with no newly down key, there is no wait to resolve. -/
theorem keyUpdateOtherwiseOnlyReplacesTheKeys : Obligations.KeyUpdateOtherwiseOnlyReplacesTheKeys := by
  unfold Obligations.KeyUpdateOtherwiseOnlyReplacesTheKeys
  rintro s keys (hwait | hkeys)
  · exact congrArg Host.Outcome.next (s.keyUpdate_of_not_waiting hwait)
  · exact congrArg Host.Outcome.next (s.keyUpdate_of_no_new_key (lowestNewKey_eq_none hkeys))

/-- Settles O41: the tick is one count of each timer, whatever the run state. -/
theorem timerTickCountsBothTimersDown : Obligations.TimerTickCountsBothTimersDown := by
  unfold Obligations.TimerTickCountsBothTimersDown
  intro s
  exact ⟨s.timerTick, rfl, countDown_toNat s.DT, countDown_toNat s.ST, s.changesOnly_timerTick⟩

/-- Settles O42: the count is the predecessor, iterated. -/
theorem timersReachZeroAfterTheirCount : Obligations.TimersReachZeroAfterTheirCount := by
  unfold Obligations.TimersReachZeroAfterTheirCount
  intro n s
  exact ⟨s.iterate_timerTick_DT_toNat n, s.iterate_timerTick_ST_toNat n, s.toneActive_iterate_timerTick n⟩

/-- Settles O43: each is one write of the pause bit, and a paused machine is not enabled. -/
theorem pauseAndResumeTouchOneBit : Obligations.PauseAndResumeTouchOneBit := by
  unfold Obligations.PauseAndResumeTouchOneBit
  intro s
  exact ⟨s.setPaused true, s.setPaused false, rfl, rfl, (changesOnly_refl s).setPaused _, rfl,
    State.instrTick_of_not_enabled _ (by simp [State.enabled]), rfl, rfl, (changesOnly_refl s).setPaused _, rfl⟩

/-- Settles O48: the ports are numbers whose bits are the pixels row after row and the keys. -/
theorem snapshotShowsTheState : Obligations.SnapshotShowsTheState := by
  unfold Obligations.SnapshotShowsTheState
  intro s
  exact ⟨rfl, rfl, s.fbPort_getLsbD, s.keyPort_getLsbD, s.toneActive_iff⟩

end Sys2Proof
end

section
/-! SUPPORT. Rules for reset and an accepted load (`70_reset_and_hazards.md`): what memory reads as after each. -/

namespace Sys2Proof

namespace Machine

namespace State

variable (s : State) {image : List Byte} {a : Nat}

/-- After reset an address reads as its background (R36). -/
theorem readByte_resetEvent (a : Nat) : s.resetEvent.readByte a = Memory.background s.config.fontData a := rfl

/-- R301: the event `LoadRom` of an image that fits answers the loaded state, and `ok` goes to the issuer. -/
theorem applyEvent_loadRom_of_le_maxRom (h : image.length ≤ maxRom s.config) :
    s.applyEvent (.loadRom image) = .next (s.loaded image) ∧ s.reply (.loadRom image) = .load .ok := by
  simp only [applyEvent, reply, s.loadRom_of_le_maxRom h, and_self]

theorem readByte_loaded (image : List Byte) (a : Nat) : (s.loaded image).readByte a =
    Memory.read s.config.fontData (Memory.writeBytes s.config.fontData (Memory.clearFrom 0x200 s.mem)
      s.config.entryPoint.addr image) a := rfl

/-- A load leaves memory below `0x200` alone. -/
theorem readByte_loaded_of_lt (h : a < 0x200) : (s.loaded image).readByte a = s.readByte a := by
  have haddr := (entryPoint_addr_bounds s.config.entryPoint).1
  rw [readByte_loaded, Memory.read_writeBytes, dif_neg (by omega), Memory.read_clearFrom, if_pos h]
  rfl

/-- A load copies the image to the entry point. -/
theorem readByte_loaded_of_image {k : Nat} (h : k < image.length) :
    (s.loaded image).readByte (s.config.entryPoint.addr + k) = image[k] := by
  have hk : s.config.entryPoint.addr + k - s.config.entryPoint.addr = k := Nat.add_sub_cancel_left ..
  rw [readByte_loaded, Memory.read_writeBytes, dif_pos ⟨Nat.le_add_right .., hk.symm ▸ h⟩]
  simp only [hk]

/-- A load clears the rest of the program area. -/
theorem readByte_loaded_of_rest (h : 0x200 ≤ a)
    (hrest : ¬(s.config.entryPoint.addr ≤ a ∧ a - s.config.entryPoint.addr < image.length)) :
    (s.loaded image).readByte a = 0 := by
  rw [readByte_loaded, Memory.read_writeBytes, dif_neg hrest, Memory.read_clearFrom, if_neg (Nat.not_lt.mpr h)]
  exact Memory.background_of_ge _ (by omega)

end State

end Machine

end Sys2Proof
end

section
/-! SUPPORT. Proofs of the statements on reset and load (R300, R301, R303, R304). -/

namespace Sys2Proof

open Sys2Proof.Machine

/-- Settles O44: element by element of the reset state. -/
theorem resetGivesEveryElementItsValue : Obligations.ResetGivesEveryElementItsValue := by
  unfold Obligations.ResetGivesEveryElementItsValue
  intro s
  refine ⟨s.resetEvent, rfl, s.readByte_resetEvent, fun r => ?_, rfl, rfl, rfl, fun k => ?_, rfl, rfl, pixel_clear, fun k => ?_,
    rfl, rfl, rfl, rfl, rfl⟩
  · exact Vector.getElem_replicate _
  · exact Vector.getElem_replicate _
  · exact Vector.getElem_replicate _

/-- Settles O45: an address below `0x200`, one of the image, or one of the rest; and the two limits by evaluation. -/
theorem loadAcceptsExactlyWhatFits : Obligations.LoadAcceptsExactlyWhatFits := by
  unfold Obligations.LoadAcceptsExactlyWhatFits
  intro s image
  refine ⟨fun hfits => ?_, fun hlong => s.applyEvent_loadRom_of_maxRom_lt hlong, rfl, rfl⟩
  obtain ⟨hload, hreply⟩ := s.applyEvent_loadRom_of_le_maxRom hfits
  refine ⟨s.loaded image, hload, hreply,
    fun a ha => s.readByte_loaded_of_lt ha, fun a hlow hentry => s.readByte_loaded_of_rest hlow (by omega), fun a ha _ => ?_,
    s.loaded_pc_toNat image, rfl, s.changesOnly_loaded image⟩
  obtain ⟨k, rfl⟩ := Nat.exists_eq_add_of_le ha
  rw [Nat.add_sub_cancel_left]
  by_cases hk : k < image.length
  · rw [s.readByte_loaded_of_image hk, List.getElem?_eq_getElem hk, Option.getD_some]
  · have hentry := (entryPoint_addr_bounds s.config.entryPoint).1
    rw [s.readByte_loaded_of_rest (by omega) (by omega), List.getElem?_eq_none (Nat.not_lt.mp hk), Option.getD_none]

/-- Settles O47: the load is accepted in the reset state, whose memory is the font and zeros. -/
theorem launchStateIsAsStated : Obligations.LaunchStateIsAsStated := by
  unfold Obligations.LaunchStateIsAsStated
  intro s r image hfits hreset
  obtain rfl : s.resetEvent = r := Host.Outcome.next.inj hreset
  obtain ⟨hload, -⟩ := s.resetEvent.applyEvent_loadRom_of_le_maxRom hfits
  refine ⟨s.resetEvent.loaded image, hload, fun a ha => ?_, fun a hfont ha => ?_,
    fun k hk => s.resetEvent.readByte_loaded_of_image hk, fun a hlow _ hrest => ?_, s.resetEvent.loaded_pc_toNat image,
    fun x => ?_, rfl, rfl, fun k => ?_, rfl, rfl, pixel_clear, fun k => ?_, rfl, rfl, rfl⟩
  · rw [State.readByte_loaded_of_lt _ (by omega), s.readByte_resetEvent]
    exact dif_pos ha
  · rw [State.readByte_loaded_of_lt _ ha, s.readByte_resetEvent]
    exact Memory.background_of_ge _ hfont
  · exact s.resetEvent.readByte_loaded_of_rest hlow fun ⟨hle, hlt⟩ => hrest ⟨hle, (Nat.sub_lt_iff_lt_add' hle).mp hlt⟩
  · exact Vector.getElem_replicate _
  · exact Vector.getElem_replicate _
  · exact Vector.getElem_replicate _

end Sys2Proof
end
